-- ==== Sys2Proof/Word.lean ====
section
/-! DEFINITION. The bit-vector widths of the spec: bytes, and the 64-bit registers and addresses of
10_state.md R21 to R37. -/

namespace Sys2Proof

/-- One byte of memory (R36: the address space is byte-addressed). -/
abbrev Byte := BitVec 8

/-- A 64-bit register, linear address or physical address (R21 to R25, R36, R37). -/
abbrev Word := BitVec 64

end Sys2Proof
end

