-- ==== Sys2Proof/Syntax.lean ====
section
/-! DEFINITION. The instructions: one constructor per row of spec/opcode_table.json. -/

namespace Sys2Proof

/-- The opcode map has exactly one entry (30_encoding.md R99). -/
inductive Instr where
  /-- ENCLU[EACCEPT], bytes 0F 01 D7. The instruction has no operand bits (R94): its operands are the
  registers EAX, RBX and RCX (R93), and the leaf is chosen by EAX when it executes (R95). -/
  | encluEaccept
deriving DecidableEq, Repr

end Sys2Proof
end

