-- ==== Sys2Proof/Decode.lean ====
section
/-! DEFINITION. The decoder, total on any bytes, and the encoder, from 30_encoding.md R91 to R97. The
bytes 0F 01 D7 are general knowledge in the spec (G1, D1; log 2). -/

namespace Sys2Proof

/-- The opcode escape, byte 0 of R92. -/
def opcodeEscape : Byte := 0x0F
/-- The opcode, byte 1 of R92. -/
def opcodeByte : Byte := 0x01
/-- The opcode extension, byte 2 of R92: mod = 11b, reg = 010b, rm = 111b. -/
def opcodeExtension : Byte := 0xD7

/-- How many bytes an instruction has at most (R91). -/
def maxInstrBytes : Nat := 3

/-- Why bytes are no instruction of this spec. -/
inductive DecodeError where
  /-- The first byte is one of the prefixes R97 names; no prefix is admitted. -/
  | prefixed (first : Byte)
  /-- The bytes are not those of R91 (R96). -/
  | notEnclu
  /-- Fewer bytes than the instruction has. -/
  | truncated
deriving DecidableEq, Repr

/-- The prefix bytes R97 names: operand size, the two repeats, LOCK. -/
def isPrefix (b : Byte) : Bool := b == 0x66 || b == 0xF2 || b == 0xF3 || b == 0xF0

/-- Read one instruction from the front of the bytes, the first byte at the lowest address (R91), and
give back the rest. -/
def decode : List Byte → Except DecodeError (Instr × List Byte)
  | [] => .error .truncated
  | b0 :: bs =>
    if isPrefix b0 then .error (.prefixed b0)
    else match bs with
      | b1 :: b2 :: rest =>
        if b0 = opcodeEscape ∧ b1 = opcodeByte ∧ b2 = opcodeExtension then .ok (.encluEaccept, rest)
        else .error .notEnclu
      | _ => .error .truncated

/-- The bytes of an instruction, first byte first (R91, R92). -/
def encode : Instr → List Byte
  | .encluEaccept => [opcodeEscape, opcodeByte, opcodeExtension]

/-- Byte `k` of a table word of `n` bytes. spec/opcode_table.json says: "first instruction byte
(lowest address) is the leftmost 8 characters of encoding and the most significant byte of match", so
byte 0 is the most significant of the `n` (log 3). Past the word the bytes are 0. -/
def tableByte (n w k : Nat) : Byte :=
  if k < n then BitVec.ofNat 8 (w >>> (8 * (n - 1 - k))) else 0

/-- The bytes of a table word, at least as many as the longest instruction has. -/
def tableBytes (nbits w : Nat) : List Byte :=
  (List.range (max (nbits / 8) maxInstrBytes)).map (tableByte (nbits / 8) w)

/-- What the decoder reads from a word of the opcode table. -/
def decodeTableWord (nbits w : Nat) : Option Instr :=
  match decode (tableBytes nbits w) with
  | .ok (i, _) => some i
  | .error _ => none

end Sys2Proof
end

