-- ==== Sys2Proof/Config.lean ====
section
/-! DEFINITION. The parameters of 00_scope.md R8 that are fixed for a whole run (10_state.md R54 P7).
The spec's default values stand in Machine/Defaults.lean. The other parameters of R8 are state:
MODE64, InUse, TrackingCorrect, Translate and EPC (Machine/State.lean). PFEC is the opaque constant
Config.pfec, declared after State because it depends on it. -/

namespace Sys2Proof

/-- The seven page-type codes (R45); the rules need only that the named ones differ. -/
structure PageTypes where
  secs : BitVec 8
  tcs : BitVec 8
  reg : BitVec 8
  va : BitVec 8
  trim : BitVec 8
  ssFirst : BitVec 8
  ssRest : BitVec 8
deriving DecidableEq, Repr

/-- A run of bits of the 512-bit SECINFO: the lowest bit and how many. -/
structure BitRange where
  lo : Nat
  len : Nat
deriving DecidableEq, Repr

/-- Where the SECINFO fields stand (R43, R44), as bit positions of the 64-byte structure read as one
little-endian number. FLAGS is its low 64 bits, so a bit of FLAGS has the same position here. -/
structure SecinfoLayout where
  r : Nat
  w : Nat
  x : Nat
  pending : Nat
  modified : Nat
  pr : Nat
  /-- The lowest bit of the 8-bit field PT. -/
  pt : Nat
  /-- The bits that must be zero (R118). -/
  reserved : List BitRange
deriving DecidableEq, Repr

/-- A field of the TCS page: its byte offset and its width in bytes (R47). -/
structure TcsField where
  offset : Nat
  bytes : Nat
deriving DecidableEq, Repr

/-- Where the TCS fields stand (R46, R47). OSSA, OENTRY, OFSBASE, OGSBASE and OCETSSA are part of the
layout and are not read by EACCEPT. -/
structure TcsLayout where
  state : TcsField
  flags : TcsField
  /-- The bit of FLAGS that is DBGOPTIN. -/
  dbgoptin : Nat
  ossa : TcsField
  cssa : TcsField
  nssa : TcsField
  oentry : TcsField
  aep : TcsField
  ofsbase : TcsField
  ogsbase : TcsField
  fslimit : TcsField
  gslimit : TcsField
  ocetssa : TcsField
  prevssp : TcsField
  /-- The bytes that must be zero (R134). -/
  reserved : List TcsField
deriving DecidableEq, Repr

/-- How the SECINFO page's ENCLAVEADDRESS is compared (R116, 90_conflicts.md C2). -/
inductive SecinfoAddrCmp where
  /-- With the base of the page RBX lies in: the spec's reading. -/
  | page
  /-- With the offset of RBX inside its page: the printed text. -/
  | literal
deriving DecidableEq, Repr

/-- The sites that raise #PF (60_exceptions.md R163), which PFEC may tell apart (R168). -/
inductive PfSite where
  /-- Site 5: the SECINFO operand does not resolve within an EPC. -/
  | secinfoResolve
  /-- Site 6: the SECINFO page's entry is not acceptable. -/
  | secinfoAttributes
  /-- Site 12: the page operand does not resolve within an EPC. -/
  | pageResolve
  /-- Site 14: the target page's entry is not acceptable. -/
  | pageAttributes
  /-- Site 16: the re-check under the lock. -/
  | pageRecheck
deriving DecidableEq, Repr

/-- The parameters of R8 that are fixed for the run. -/
structure Config where
  /-- SGX2_PRESENT: CPUID reports SGX2 (launch premise P4). -/
  sgx2Present : Bool
  /-- SGX_ATTR_CET: CPUID.(EAX=12H, ECX=1):EAX[6] (R34). -/
  sgxAttrCet : Bool
  /-- CPUID_CET_SS: CPUID.(EAX=07H, ECX=0H):ECX[CET_SS] (R34). -/
  cpuidCetSs : Bool
  /-- SGX_PAGE_ATTRIBUTES_MISMATCH (R48). -/
  pageAttributesMismatch : Word
  /-- SGX_NOT_TRACKED (R48). -/
  notTracked : Word
  pt : PageTypes
  secinfo : SecinfoLayout
  tcs : TcsLayout
  /-- LINEAR_BITS: implemented linear-address bits (R62). -/
  linearBits : Nat
  /-- SECINFO_ADDR_CMP (R116). -/
  secinfoAddrCmp : SecinfoAddrCmp
  /-- ENCLU_LENGTH (R25, R91). -/
  encluLength : Nat
deriving DecidableEq, Repr

end Sys2Proof
end

