-- ==== Sys2Proof/Machine/Defaults.lean ====
section
/-! DEFINITION. The default parameter values of 00_scope.md R8, 10_state.md R44, R45 and R47. Every one
is general knowledge in the spec (G1 to G5, G14), not the source's (log 2, 18, 20, 21, 22). -/

namespace Sys2Proof.Machine

/-- R45 (G3). -/
def defaultPageTypes : PageTypes where
  secs := 0
  tcs := 1
  reg := 2
  va := 3
  trim := 4
  ssFirst := 5
  ssRest := 6

/-- R44 (G2): FLAGS bits 7:6 and 63:16 and bytes 8 to 63 are reserved. -/
def defaultSecinfoLayout : SecinfoLayout where
  r := 0
  w := 1
  x := 2
  pending := 3
  modified := 4
  pr := 5
  pt := 8
  reserved := [⟨6, 2⟩, ⟨16, 48⟩, ⟨64, 448⟩]

/-- R47 (G5). -/
def defaultTcsLayout : TcsLayout where
  state := ⟨0, 8⟩
  flags := ⟨8, 8⟩
  dbgoptin := 0
  ossa := ⟨16, 8⟩
  cssa := ⟨24, 4⟩
  nssa := ⟨28, 4⟩
  oentry := ⟨32, 8⟩
  aep := ⟨40, 8⟩
  ofsbase := ⟨48, 8⟩
  ogsbase := ⟨56, 8⟩
  fslimit := ⟨64, 4⟩
  gslimit := ⟨68, 4⟩
  ocetssa := ⟨72, 8⟩
  prevssp := ⟨80, 8⟩
  reserved := [⟨88, 4008⟩]

/-- The defaults of R8. SGX2_PRESENT is launch premise P4. The two CET bits are open in the spec: the
value false is the model's choice for the reset state alone (log 12). -/
def defaultConfig : Config where
  sgx2Present := true
  sgxAttrCet := false
  cpuidCetSs := false
  pageAttributesMismatch := 19
  notTracked := 11
  pt := defaultPageTypes
  secinfo := defaultSecinfoLayout
  tcs := defaultTcsLayout
  linearBits := 48
  secinfoAddrCmp := .page
  encluLength := 3

end Sys2Proof.Machine
end

