-- ==== Sys2Proof/Machine/State.lean ====
section
/-! DEFINITION. Every piece of state 10_state.md gives the machine, as plain data, the launch state the
host calls reset, and the reasons a step can stop. -/

namespace Sys2Proof.Machine

/-- The general registers by name (R21 to R24; the names of the others are G20). -/
inductive Gpr where
  | rax | rcx | rdx | rbx | rsp | rbp | rsi | rdi | r8 | r9 | r10 | r11 | r12 | r13 | r14 | r15
deriving DecidableEq, Repr

/-- The general registers, 64 bits each (R21 to R24). -/
structure Regs where
  rax : Word
  rcx : Word
  rdx : Word
  rbx : Word
  rsp : Word
  rbp : Word
  rsi : Word
  rdi : Word
  r8 : Word
  r9 : Word
  r10 : Word
  r11 : Word
  r12 : Word
  r13 : Word
  r14 : Word
  r15 : Word
deriving DecidableEq, Repr

/-- The DS segment as far as the operands use it (R28). -/
structure Segment where
  base : Word
  limit : BitVec 32
deriving DecidableEq, Repr

/-- CR_ELRANGE (R32). -/
structure Elrange where
  base : Word
  size : Word
deriving DecidableEq, Repr

/-- The conditions common to every ENCLU leaf, launch premise P3 (R54, G11; the last one R63). -/
structure CommonConditions where
  protectedMode : Bool
  paging : Bool
  virtual8086 : Bool
  smm : Bool
  sgxEnabled : Bool
  /-- The current privilege level. -/
  cpl : BitVec 2
  /-- CR0.TS. -/
  crTs : Bool
  /-- DS is neither null nor unreadable (R63); it counts only outside 64-bit mode (log 34). -/
  dsUsable : Bool
deriving DecidableEq, Repr

/-- One entry of the EPCM (R40). -/
structure EpcmEntry where
  valid : Bool
  r : Bool
  w : Bool
  x : Bool
  pt : BitVec 8
  enclaveSecs : Word
  enclaveAddress : Word
  blocked : Bool
  pending : Bool
  modified : Bool
  pr : Bool
deriving DecidableEq, Repr

/-- Bytes by address: strictly rising addresses, and no byte equal to what an unlisted address reads
as (Machine/Ops.lean, Memory.read). -/
abbrev Memory := List Host.Cell

/-- The state of the logical processor and of what it shares with the environment (R181). -/
structure State where
  /-- The parameters of R8 that are fixed for the run (P7). -/
  cfg : Config
  regs : Regs
  /-- RIP: the linear address of the first byte of the instruction (R25). -/
  pc : Word
  /-- RFLAGS, the six status flags and every other bit (R26, R27). -/
  rflags : Word
  ds : Segment
  /-- MODE64 (R30). -/
  mode64 : Bool
  /-- IN_ENCLAVE (R31). -/
  inEnclave : Bool
  elrange : Elrange
  /-- CR_ACTIVE_SECS (R33). -/
  activeSecs : Word
  common : CommonConditions
  /-- The program text, by linear address (R80, D27). -/
  text : Memory
  /-- Physical memory (R37), which MemRead reaches through the translation (R12, R70, R72). -/
  mem : Memory
  /-- The read translation: linear page address to physical page address (R66). -/
  translation : List (Nat × Word)
  /-- The EPCM by physical page address; the pages listed are the EPC (R38, R39). -/
  epcm : List (Nat × EpcmEntry)
  /-- The EPC pages another thread holds: the state behind InUse (R49, R50). -/
  inUse : List Nat
  /-- The EPC pages for which tracking is correct: the state behind TrackingCorrect (R49, R51). -/
  tracked : List Nat
  /-- The SECS pages whose ATTRIBUTES.MODE64BIT is 1 (R42). -/
  secsMode64 : List Nat
deriving DecidableEq, Repr

/-- All general registers at the launch state: EAX = 5 is launch premise P2, the rest is the model's
choice (log 12). -/
def Regs.reset : Regs where
  rax := 5
  rcx := 0
  rdx := 0
  rbx := 0
  rsp := 0
  rbp := 0
  rsi := 0
  rdi := 0
  r8 := 0
  r9 := 0
  r10 := 0
  r11 := 0
  r12 := 0
  r13 := 0
  r14 := 0
  r15 := 0

/-- The conditions of launch premise P3, met. -/
def CommonConditions.met : CommonConditions where
  protectedMode := true
  paging := true
  virtual8086 := false
  smm := false
  sgxEnabled := true
  cpl := 3
  crTs := false
  dsUsable := true

/-- The spec has no reset (R53, R200): "a run starts from a launch state". This is the launch state the
model names: it meets P2 to P7 of R54, is outside any enclave (R53, G11), and holds zero or nothing
elsewhere. DESIGN CHOICE and PRESUMED, log 12, unsafe. -/
def State.reset : State where
  cfg := defaultConfig
  regs := Regs.reset
  pc := 0
  rflags := 2
  ds := ⟨0, 0⟩
  mode64 := false
  inEnclave := false
  elrange := ⟨0, 0⟩
  activeSecs := 0
  common := CommonConditions.met
  text := []
  mem := []
  translation := []
  epcm := []
  inUse := []
  tracked := []
  secsMode64 := []

/-- PFEC: the error code of #PF at a site and a state. The spec leaves it open and no rule depends on
it (R168, D23; log 5), so it has no body. -/
opaque Config.pfec : PfSite → State → BitVec 32

/-- The fault outcome (R175): the exception's name, its error code, the faulting linear address for
#PF, and the unchanged state before the instruction. Delivery is out of scope (R176), so the run
ends here; that is safe, since nothing can be claimed past it. -/
inductive Fault where
  /-- #GP(0). Raised by the EACCEPT tests of R161. Safe. -/
  | gp (errorCode : BitVec 32) (pre : State)
  /-- #PF. Raised by the EACCEPT tests of R163. Safe. -/
  | pf (errorCode : BitVec 32) (linear : Word) (pre : State)
deriving DecidableEq, Repr

/-- The conditions of launch premise P3, each by its own name. -/
inductive CommonCondition where
  | protectedMode | paging | notVirtual8086 | notSmm | sgxEnabled | cpl3 | tsClear | dsUsable
deriving DecidableEq, Repr

/-- The spec gives the step no meaning. Every refusal is safe: it gives no outcome (R54, R95, R96). -/
inductive Refusal where
  /-- An arm of exec that has no meaning yet. No arm answers it. -/
  | notModelled (mnemonic : String)
  /-- Raised by step: the bytes at pc are no instruction of the spec (P1, R96, R97). Safe. -/
  | undecodable (why : DecodeError)
  /-- Raised by ENCLU: a condition common to every leaf does not hold (P3). Safe. -/
  | commonCondition (which : CommonCondition)
  /-- Raised by ENCLU: CPUID does not report SGX2 (P4). Safe. -/
  | sgx2Absent
  /-- Raised by ENCLU: EAX selects another leaf, or none (P2, R95). Safe. -/
  | otherLeaf (eax : BitVec 32)
deriving DecidableEq, Repr

end Sys2Proof.Machine
end

