-- ==== Sys2Proof/Machine/Flags.lean ====
section
/-! DEFINITION. The RFLAGS status flags (10_state.md R26, R27). EACCEPT computes no flag from a result:
it sets all six to constants (R156). -/

namespace Sys2Proof.Machine

/-- The six status flags EACCEPT writes (R26). -/
inductive StatusFlag where
  | cf | pf | af | zf | sf | of
deriving DecidableEq, Repr

/-- The flag's bit of RFLAGS. The positions are general knowledge in the spec (R26, G6; log 23). -/
def StatusFlag.bit : StatusFlag → Nat
  | .cf => 0
  | .pf => 2
  | .af => 4
  | .zf => 6
  | .sf => 7
  | .of => 11

/-- Read one status flag. -/
def readFlag (rflags : Word) (f : StatusFlag) : Bool := rflags.getLsbD f.bit

/-- Write one status flag; every other bit keeps its value (R27). -/
def writeFlag (rflags : Word) (f : StatusFlag) (b : Bool) : Word :=
  if b then rflags ||| BitVec.twoPow 64 f.bit else rflags &&& ~~~(BitVec.twoPow 64 f.bit)

/-- CF, PF, AF, OF and SF cleared, at the label DONE (R141). -/
def clearDoneFlags (rflags : Word) : Word :=
  [StatusFlag.cf, .pf, .af, .of, .sf].foldl (fun r f => writeFlag r f false) rflags

end Sys2Proof.Machine
end

