-- ==== Sys2Proof/Machine/Ops.lean ====
section
/-! DEFINITION. The named operations over registers, memory, translation and the EPCM, and raising an
exception (10_state.md, 20_memory.md, 60_exceptions.md). -/

namespace Sys2Proof.Machine

/-! ### Tables by address -/

/-- The value listed under a key. -/
def lookup {α : Type} (k : Nat) : List (Nat × α) → Option α
  | [] => none
  | c :: t => if c.1 = k then some c.2 else lookup k t

/-- Change the value listed under a key; the keys stay as they are. -/
def updateAt {α : Type} (k : Nat) (f : α → α) (l : List (Nat × α)) : List (Nat × α) :=
  l.map fun c => if c.1 = k then (c.1, f c.2) else c

/-- The keys of a table. -/
def keys {α : Type} (l : List (Nat × α)) : List Nat := l.map Prod.fst

/-! ### Memory -/

/-- What an address that is not listed reads as. The spec leaves it open (R53): DESIGN CHOICE 0, log
10. -/
def unlistedByte : Byte := 0

/-- Read one byte. -/
def Memory.read (m : Memory) (a : Nat) : Byte := (lookup a m).getD unlistedByte

/-- List a byte under an address, keeping the addresses rising. -/
def Memory.insert (a : Nat) (b : Byte) : Memory → Memory
  | [] => [(a, b)]
  | c :: t =>
    if a < c.1 then (a, b) :: c :: t
    else if a = c.1 then (a, b) :: t
    else c :: Memory.insert a b t

/-- Write one byte. Writing the value an unlisted address reads as removes the entry. -/
def Memory.write (m : Memory) (a : Nat) (b : Byte) : Memory :=
  if b = unlistedByte then m.filter (fun c => c.1 ≠ a) else Memory.insert a b m

/-- The canonical form: strictly rising 64-bit addresses, no entry equal to the unlisted byte. -/
abbrev Memory.wf (m : Memory) : Prop :=
  (keys m).Pairwise (· < ·) ∧ ∀ c ∈ m, c.1 < 2 ^ 64 ∧ c.2 ≠ unlistedByte

/-- The `n` bytes from address `a` up as one number, the byte at the lowest address in the low bits
(R71). -/
def Memory.readLE (m : Memory) (a : Nat) : Nat → Nat
  | 0 => 0
  | n + 1 => (Memory.read m a).toNat + 256 * Memory.readLE m (a + 1) n

/-- The `n` bytes from address `a` up are all 0. An unlisted byte reads as 0, so the listed bytes of
the range decide; Memory.allZero_iff (Laws/Memory.lean) says it byte by byte. -/
def Memory.allZero (m : Memory) (a n : Nat) : Bool :=
  unlistedByte == 0 &&
    m.all fun c => !decide (a ≤ c.1 ∧ c.1 < a + n) || Memory.read m c.1 == 0

/-! ### General registers -/

/-- Read a general register. -/
def Regs.get (r : Regs) : Gpr → Word
  | .rax => r.rax
  | .rcx => r.rcx
  | .rdx => r.rdx
  | .rbx => r.rbx
  | .rsp => r.rsp
  | .rbp => r.rbp
  | .rsi => r.rsi
  | .rdi => r.rdi
  | .r8 => r.r8
  | .r9 => r.r9
  | .r10 => r.r10
  | .r11 => r.r11
  | .r12 => r.r12
  | .r13 => r.r13
  | .r14 => r.r14
  | .r15 => r.r15

/-- Write a general register, all 64 bits. -/
def Regs.set (r : Regs) (g : Gpr) (v : Word) : Regs :=
  match g with
  | .rax => { r with rax := v }
  | .rcx => { r with rcx := v }
  | .rdx => { r with rdx := v }
  | .rbx => { r with rbx := v }
  | .rsp => { r with rsp := v }
  | .rbp => { r with rbp := v }
  | .rsi => { r with rsi := v }
  | .rdi => { r with rdi := v }
  | .r8 => { r with r8 := v }
  | .r9 => { r with r9 := v }
  | .r10 => { r with r10 := v }
  | .r11 => { r with r11 := v }
  | .r12 => { r with r12 := v }
  | .r13 => { r with r13 := v }
  | .r14 => { r with r14 := v }
  | .r15 => { r with r15 := v }

/-- x[g] (R12). -/
def State.reg (s : State) (g : Gpr) : Word := s.regs.get g

/-- x[g] <- v (R12). -/
def State.setReg (s : State) (g : Gpr) (v : Word) : State := { s with regs := s.regs.set g v }

/-- x[EAX] = x[RAX][31:0] (R21). -/
def State.eax (s : State) : BitVec 32 := (s.reg .rax).setWidth 32

/-- flag[f] (R12). -/
def State.flag (s : State) (f : StatusFlag) : Bool := readFlag s.rflags f

/-- flag[f] <- b (R12). -/
def State.setFlag (s : State) (f : StatusFlag) (b : Bool) : State :=
  { s with rflags := writeFlag s.rflags f b }

/-! ### The instruction pointer -/

/-- The address `n` bytes after pc: modulo 2^64 in 64-bit mode, modulo 2^32 outside it (R25). -/
def State.pcPlus (s : State) (n : Nat) : Word :=
  if s.mode64 then s.pc + BitVec.ofNat 64 n
  else ((s.pc + BitVec.ofNat 64 n).setWidth 32).setWidth 64

/-- pc <- pc + ENCLU_LENGTH (R25, R141). -/
def State.advancePc (s : State) : State := { s with pc := s.pcPlus s.cfg.encluLength }

/-! ### Pages, translation and the EPCM -/

/-- The base of the 4-KByte page an address lies in: `a & ~0xFFF` (R10). -/
def pageBase (a : Word) : Word := a &&& ~~~0xFFF

/-- The offset of an address inside its page: `a & 0xFFF` (R10). -/
def pageOffset (a : Word) : Word := a &&& 0xFFF

/-- The kinds of access Translate is asked about: here always a read (R66). -/
inductive AccessKind where
  | read
deriving DecidableEq, Repr

/-- Translate(s, la, kind): a physical address with the same offset inside its page, or none for
PageFault (R66; by page, log 7). -/
def State.translate (s : State) (la : Word) : AccessKind → Option Word
  | .read => (lookup (pageBase la).toNat s.translation).map fun frame =>
      pageBase frame ||| pageOffset la

/-- What an operand's linear address leads to: the physical address and the EPCM entry of its page. -/
structure Located where
  pa : Word
  entry : EpcmEntry
deriving DecidableEq, Repr

/-- The page address of an EPC page found, the key of its entry. -/
def Located.page (l : Located) : Nat := (pageBase l.pa).toNat

/-- Resolve a linear address within an EPC and look its EPCM entry up: none when the translation fails
or the page is no EPC page (R67, R68). -/
def State.locate (s : State) (la : Word) : Option Located :=
  match s.translate la .read with
  | none => none
  | some pa => (lookup (pageBase pa).toNat s.epcm).map fun e => ⟨pa, e⟩

/-- Write the EPCM entry of an EPC page. -/
def State.updateEpcm (s : State) (page : Nat) (f : EpcmEntry → EpcmEntry) : State :=
  { s with epcm := updateAt page f s.epcm }

/-- InUse(s, p): another thread holds the EPC page (R50). -/
def State.pageInUse (s : State) (page : Nat) : Bool := s.inUse.contains page

/-- TrackingCorrect(s, p) (R51). -/
def State.trackingCorrect (s : State) (page : Nat) : Bool := s.tracked.contains page

/-- SECS_MODE64BIT(s, pa) (R42). -/
def State.secsMode64bit (s : State) (pa : Word) : Bool := s.secsMode64.contains pa.toNat

/-! ### Raising an exception

The spec describes no entry and no return (R176, R177): raising ends the step in the fault outcome of
R175, with the state before the instruction. -/

/-- raise GP(0): the error code is always 0 (R161, R166). -/
def State.raiseGP (s : State) : Fault := .gp 0 s

/-- raise PF(la) at a site: the faulting linear address, and the open error code (R167, R168). -/
def State.raisePF (s : State) (site : PfSite) (la : Word) : Fault := .pf (Config.pfec site s) la s

end Sys2Proof.Machine
end

