-- ==== Sys2Proof/Machine/Operands.lean ====
section
/-! DEFINITION. The two memory operands of EACCEPT: their addresses and the four address tests they
share (20_memory.md R60 to R68), and the two structures read from memory, SECINFO (R43, R44, R70) and
TCS (R46, R47, R72). -/

namespace Sys2Proof.Machine

/-! ### Addresses -/

/-- The two memory operands (R93). -/
inductive Operand where
  /-- The SECINFO, addressed by RBX. -/
  | secinfo
  /-- The destination EPC page, addressed by RCX. -/
  | page
deriving DecidableEq, Repr

/-- The register that holds the operand's effective address (R93). -/
def Operand.reg : Operand → Gpr
  | .secinfo => .rbx
  | .page => .rcx

/-- The operand's size in bytes, which is also its alignment (R64, R65). -/
def Operand.size : Operand → Nat
  | .secinfo => 64
  | .page => 4096

/-- The #PF site of an operand that does not resolve within an EPC (R163). -/
def Operand.resolveSite : Operand → PfSite
  | .secinfo => .secinfoResolve
  | .page => .pageResolve

/-- EA: the whole register in 64-bit mode, its low 32 bits zero-extended outside it (R60). -/
def State.effectiveAddress (s : State) (o : Operand) : Word :=
  if s.mode64 then s.reg o.reg else ((s.reg o.reg).setWidth 32).setWidth 64

/-- LA: EA in 64-bit mode, `(DS.base[31:0] + EA) mod 2^32` outside it (R61). -/
def State.linearAddress (s : State) (o : Operand) : Word :=
  if s.mode64 then s.effectiveAddress o
  else ((s.ds.base.setWidth 32) + (s.effectiveAddress o).setWidth 32).setWidth 64

/-- An address is canonical when it is the sign-extension of its low `bits` bits (R62). -/
def canonical (bits : Nat) (a : Word) : Bool := (a.setWidth bits).signExtend 64 == a

/-- The address-form test passes: canonical in 64-bit mode (R62), and outside it the whole operand
inside the DS limit, without wrap-around (R63). -/
def State.addressForm (s : State) (o : Operand) : Bool :=
  if s.mode64 then canonical s.cfg.linearBits (s.linearAddress o)
  else (s.effectiveAddress o).toNat + (o.size - 1) ≤ s.ds.limit.toNat

/-- The operand is aligned to its size (R65). -/
def State.aligned (s : State) (o : Operand) : Bool := (s.linearAddress o).toNat % o.size == 0

/-- An operand of `n` bytes at `a` is within CR_ELRANGE, computed as natural numbers (R64). -/
def withinElrange (e : Elrange) (a : Word) (n : Nat) : Bool :=
  e.base.toNat ≤ a.toNat && a.toNat + n ≤ e.base.toNat + e.size.toNat

/-- The operand is within CR_ELRANGE (R64). -/
def State.inRange (s : State) (o : Operand) : Bool :=
  withinElrange s.elrange (s.linearAddress o) o.size

/-- The four tests each operand's address takes, in order: form, alignment, CR_ELRANGE (each #GP(0)),
and resolving within an EPC (#PF). Lines 2 to 5 and 9 to 12 of R110. -/
def State.locateOperand (s : State) (o : Operand) : Except Fault Located :=
  if !s.addressForm o then .error s.raiseGP
  else if !s.aligned o then .error s.raiseGP
  else if !s.inRange o then .error s.raiseGP
  else match s.locate (s.linearAddress o) with
    | none => .error (s.raisePF o.resolveSite (s.linearAddress o))
    | some l => .ok l

/-! ### SECINFO -/

/-- The sub-fields of SECINFO.FLAGS (R43). -/
structure SecinfoFlags where
  r : Bool
  w : Bool
  x : Bool
  pending : Bool
  modified : Bool
  pr : Bool
  pt : BitVec 8
deriving DecidableEq, Repr

/-- SCRATCH_SECINFO <- MemRead(LA_SECINFO, 64): the 64 bytes as one little-endian number (R70, R71). -/
def State.readSecinfo (s : State) (pa : Word) : BitVec 512 :=
  BitVec.ofNat 512 (Memory.readLE s.mem pa.toNat 64)

/-- Read the sub-fields of FLAGS by the layout (R43, R44). -/
def secinfoFlags (l : SecinfoLayout) (secinfo : BitVec 512) : SecinfoFlags where
  r := secinfo.getLsbD l.r
  w := secinfo.getLsbD l.w
  x := secinfo.getLsbD l.x
  pending := secinfo.getLsbD l.pending
  modified := secinfo.getLsbD l.modified
  pr := secinfo.getLsbD l.pr
  pt := secinfo.extractLsb' l.pt 8

/-- All reserved bits of the SECINFO are zero (R118). -/
def secinfoReservedZero (l : SecinfoLayout) (secinfo : BitVec 512) : Bool :=
  l.reserved.all fun r => secinfo.extractLsb' r.lo r.len == 0

/-! ### TCS -/

/-- TCS(LA_PAGE).F as an unsigned number, little-endian (R71, R72, R136). `pa` is where the page
stands in physical memory. -/
def State.tcsField (s : State) (pa : Word) (f : TcsField) : Nat :=
  Memory.readLE s.mem (pa.toNat + f.offset) f.bytes

/-- Every reserved byte of the TCS is 0 (R134). -/
def State.tcsReservedZero (s : State) (pa : Word) : Bool :=
  s.cfg.tcs.reserved.all fun f => Memory.allZero s.mem (pa.toNat + f.offset) f.bytes

/-- TCS(LA_PAGE).FLAGS.DBGOPTIN (R135). -/
def State.tcsDbgoptin (s : State) (pa : Word) : Bool :=
  (s.tcsField pa s.cfg.tcs.flags).testBit s.cfg.tcs.dbgoptin

end Sys2Proof.Machine
end

