-- ==== Sys2Proof/Machine/Eaccept.lean ====
section
/-! DEFINITION. The instruction ENCLU[EACCEPT], 40_enclu_eaccept.md R110 line by line: the tests in
their order (the first that fails decides, 60_exceptions.md R171), then the completion. -/

namespace Sys2Proof.Machine

/-! ### Before the leaf: launch premises P3, P4 and P2 of R54 -/

/-- The first condition common to every ENCLU leaf that does not hold, if any (P3, G11; log 15). DS
counts only outside 64-bit mode: R63, "protected mode only", adds it to P3 and names no mode for it,
and in 64-bit mode no rule uses DS (R28, R61, R180). DESIGN CHOICE, unsafe, log 34. -/
def CommonConditions.failing (c : CommonConditions) (mode64 : Bool) : Option CommonCondition :=
  if !c.protectedMode then some .protectedMode
  else if !c.paging then some .paging
  else if c.virtual8086 then some .notVirtual8086
  else if c.smm then some .notSmm
  else if !c.sgxEnabled then some .sgxEnabled
  else if c.cpl ≠ 3 then some .cpl3
  else if c.crTs then some .tsClear
  else if !mode64 && !c.dsUsable then some .dsUsable
  else none

/-- Why the model gives the execution of ENCLU no outcome, if so: P3, P4 (R54), and EAX selecting
another leaf (P2, R95). -/
def State.leafRefusal (s : State) : Option Refusal :=
  match s.common.failing s.mode64 with
  | some c => some (.commonCondition c)
  | none =>
    if !s.cfg.sgx2Present then some .sgx2Absent
    else if s.eax ≠ 5 then some (.otherLeaf s.eax)
    else none

/-! ### Lines 2 to 8: the SECINFO operand -/

/-- What the SECINFO page's ENCLAVEADDRESS is compared with (R116, C2). -/
def State.secinfoPageAddress (s : State) : Word :=
  match s.cfg.secinfoAddrCmp with
  | .page => pageBase (s.linearAddress .secinfo)
  | .literal => pageOffset (s.linearAddress .secinfo)

/-- None of the eight conditions on the SECINFO page's entry holds (R116). -/
def State.secinfoPageOk (s : State) (e : EpcmEntry) : Bool :=
  e.valid && e.r && !e.pending && !e.modified && !e.blocked && e.pt == s.cfg.pt.reg &&
    e.enclaveSecs == s.activeSecs && e.enclaveAddress == s.secinfoPageAddress

/-- Lines 2 to 8 of R110: the address tests, the SECINFO page's attributes (R116), the copy (R117) and
its reserved fields (R118). Answers the FLAGS of the copy. -/
def State.secinfoStage (s : State) : Except Fault SecinfoFlags :=
  match s.locateOperand .secinfo with
  | .error f => .error f
  | .ok l =>
    if !s.secinfoPageOk l.entry then
      .error (s.raisePF .secinfoAttributes (s.linearAddress .secinfo))
    else if !secinfoReservedZero s.cfg.secinfo (s.readSecinfo l.pa) then .error s.raiseGP
    else .ok (secinfoFlags s.cfg.secinfo (s.readSecinfo l.pa))

/-! ### Lines 9 to 16: the page operand -/

/-- LegalRequest(F, cet): clauses A, B and, with cet, C (R123). -/
def legalRequest (t : PageTypes) (cet : Bool) (f : SecinfoFlags) : Bool :=
  (f.pt == t.reg && (f.pr || f.pending) && !f.modified) ||
  ((f.pt == t.tcs || f.pt == t.trim) && !f.pr && !f.pending && f.modified) ||
  (cet && (f.pt == t.ssFirst || f.pt == t.ssRest) && f.pending && !f.modified && !f.pr)

/-- The five page types a target page may have (R125). -/
def admissibleType (t : PageTypes) (pt : BitVec 8) : Bool :=
  pt == t.reg || pt == t.tcs || pt == t.trim || pt == t.ssFirst || pt == t.ssRest

/-- None of the conditions of R125 on the target page's entry holds. -/
def State.targetPageOk (s : State) (t : EpcmEntry) : Bool :=
  t.valid && !t.blocked && admissibleType s.cfg.pt t.pt && t.enclaveSecs == s.activeSecs

/-- The re-check under the lock passes (R128). In the atomic step the entry has not changed since R125,
so this never fails once R125 has passed (log 24). -/
def State.recheckOk (s : State) (t : EpcmEntry) : Bool :=
  t.valid && t.enclaveSecs == s.activeSecs

/-- Lines 9 to 16 of R110: the address tests, legality (R124), the target page's attributes (R125), the
concurrency test (R127) and the re-check (R128). Answers the target page. -/
def State.pageStage (s : State) (f : SecinfoFlags) : Except Fault Located :=
  match s.locateOperand .page with
  | .error e => .error e
  | .ok l =>
    if !legalRequest s.cfg.pt s.cfg.sgxAttrCet f then .error s.raiseGP
    else if !s.targetPageOk l.entry then
      .error (s.raisePF .pageAttributes (s.linearAddress .page))
    else if s.pageInUse l.page then .error s.raiseGP
    else if !s.recheckOk l.entry then
      .error (s.raisePF .pageRecheck (s.linearAddress .page))
    else .ok l

/-! ### Lines 17 to 20: match, tracking and the TCS -/

/-- The request matches the page: none of the seven differences of R129. PR is not compared. -/
def State.requestMatches (s : State) (f : SecinfoFlags) (t : EpcmEntry) : Bool :=
  t.enclaveAddress == s.linearAddress .page && t.pending == f.pending && t.modified == f.modified &&
    t.r == f.r && t.w == f.w && t.x == f.x && t.pt == f.pt

/-- The five tests on the contents of a new TCS pass (R134 to R138). `pa` is where the page stands in
physical memory and `tmpSecs` the SECS of the enclave that owns it (R132). -/
def State.tcsOk (s : State) (pa tmpSecs : Word) : Bool :=
  s.tcsReservedZero pa &&
  (!s.tcsDbgoptin pa && s.tcsField pa s.cfg.tcs.aep == 0 && s.tcsField pa s.cfg.tcs.state == 0) &&
  s.tcsField pa s.cfg.tcs.cssa < s.tcsField pa s.cfg.tcs.nssa &&
  !(s.cfg.cpuidCetSs && s.tcsField pa s.cfg.tcs.prevssp != 0) &&
  !(!s.secsMode64bit tmpSecs &&
    (s.tcsField pa s.cfg.tcs.fslimit % 4096 != 0xFFF ||
      s.tcsField pa s.cfg.tcs.gslimit % 4096 != 0xFFF))

/-! ### Lines 21 to 24: completion -/

/-- R139: PENDING, MODIFIED and PR cleared, every other field as it was. -/
def EpcmEntry.accepted (t : EpcmEntry) : EpcmEntry :=
  { t with pending := false, modified := false, pr := false }

/-- DONE: CF, PF, AF, OF, SF cleared and pc advanced (R141). -/
def State.done (s : State) : State := { s with rflags := clearDoneFlags s.rflags }.advancePc

/-- Complete with an error code: ZF <- 1, x[RAX] <- the code, then DONE (R130, R131). -/
def State.completeError (s : State) (code : Word) : State :=
  ((s.setFlag .zf true).setReg .rax code).done

/-- Complete with success: the EPCM update (R139), ZF <- 0, x[RAX] <- 0 (R140), then DONE. -/
def State.completeAccept (s : State) (page : Nat) : State :=
  (((s.updateEpcm page EpcmEntry.accepted).setFlag .zf false).setReg .rax 0).done

/-- Lines 17 to 24 of R110, once both operands have passed: match (R129, R130), tracking (R131), the
TCS tests (R132, R133), completion. -/
def State.acceptStage (s : State) (f : SecinfoFlags) (l : Located) : Except Fault State :=
  if !s.requestMatches f l.entry then .ok (s.completeError s.cfg.pageAttributesMismatch)
  else if !s.trackingCorrect l.page then .ok (s.completeError s.cfg.notTracked)
  else if f.pt == s.cfg.pt.tcs && !s.tcsOk l.pa l.entry.enclaveSecs then .error s.raiseGP
  else .ok (s.completeAccept l.page)

/-! ### The instruction -/

/-- The leaf EACCEPT, R110: the enclave-mode test first (R111), then the stages in order. -/
def State.eaccept (s : State) : Except Fault State :=
  if !s.inEnclave then .error s.raiseGP
  else match s.secinfoStage with
    | .error e => .error e
    | .ok f => match s.pageStage f with
      | .error e => .error e
      | .ok l => s.acceptStage f l

/-- ENCLU[EACCEPT]: refused where the spec gives no outcome (R54, R95), otherwise the leaf. -/
def execEncluEaccept (s : State) : Host.Outcome State Fault Refusal :=
  match s.leafRefusal with
  | some r => .refused r
  | none => match s.eaccept with
    | .error e => .fault e
    | .ok t => .next t

end Sys2Proof.Machine
end

