-- ==== Sys2Proof/Machine/Fetch.lean ====
section
/-! DEFINITION. Reading an instruction's bytes from the program text (20_memory.md R80, D27), and
placing them there. -/

namespace Sys2Proof.Machine

/-- The bytes at pc, as many as the longest instruction has (P1 of R54). Fetch has no alignment
requirement (R74). -/
def State.fetch (s : State) : List Byte :=
  (List.range maxInstrBytes).map fun k => Memory.read s.text (s.pcPlus k).toNat

/-- Write bytes into a memory, the first at the address `k` bytes after pc. -/
def State.placeText (s : State) (k : Nat) (m : Memory) : List Byte → Memory
  | [] => m
  | b :: bs => s.placeText (k + 1) (Memory.write m (s.pcPlus k).toNat b) bs

end Sys2Proof.Machine
end

