-- ==== Sys2Proof/Machine/Step.lean ====
section
/-! DEFINITION. One step: fetch at pc, decode, execute. An execution is one atomic step (R7, R77). -/

namespace Sys2Proof.Machine

/-- Fetch and run one instruction. Bytes that decode to nothing are refused (P1, R96). -/
def step (s : State) : Host.Outcome State Fault Refusal :=
  match decode s.fetch with
  | .error e => .refused (.undecodable e)
  | .ok (i, _) => exec i s

/-- The state with a word of the opcode table in the program text at pc. The leaf is chosen by EAX,
which this leaves alone: the launch state has EAX = 5 (log 32). -/
def State.withFetchWord (s : State) (nbits w : Nat) : State :=
  { s with text := s.placeText 0 s.text (tableBytes nbits w) }

end Sys2Proof.Machine
end

