-- ==== Sys2Proof/WellFormed.lean ====
section
/-! DEFINITION. What must hold of an instruction and of the parameters for the rules to apply. The
one instruction has no field, so every instruction is well formed; the checks are on Config. -/

namespace Sys2Proof

/-- An instruction is well formed: ENCLU has no operand bits to restrict (R94). -/
def Instr.wf : Instr → Bool
  | .encluEaccept => true

/-- The page-type codes are pairwise distinct (R45). -/
abbrev PageTypes.wf (t : PageTypes) : Prop :=
  [t.secs, t.tcs, t.reg, t.va, t.trim, t.ssFirst, t.ssRest].Nodup

/-- The two error codes are non-zero and differ (R48). -/
abbrev Config.errorsWf (c : Config) : Prop :=
  c.pageAttributesMismatch ≠ 0 ∧ c.notTracked ≠ 0 ∧ c.pageAttributesMismatch ≠ c.notTracked

/-- The bit positions of the SECINFO fields, PT as its eight bits. -/
def SecinfoLayout.positions (l : SecinfoLayout) : List Nat :=
  [l.r, l.w, l.x, l.pending, l.modified, l.pr] ++ (List.range 8).map (l.pt + ·)

/-- The fields are bits of FLAGS, no two share a bit, and none is reserved (R43). -/
abbrev SecinfoLayout.wf (l : SecinfoLayout) : Prop :=
  (∀ p ∈ l.positions, p < 64) ∧ l.positions.Nodup ∧
  ∀ p ∈ l.positions, ∀ r ∈ l.reserved, ¬ (r.lo ≤ p ∧ p < r.lo + r.len)

/-- The fields of a TCS layout, the reserved ranges among them. -/
def TcsLayout.fields (l : TcsLayout) : List TcsField :=
  [l.state, l.flags, l.ossa, l.cssa, l.nssa, l.oentry, l.aep, l.ofsbase, l.ogsbase, l.fslimit,
    l.gslimit, l.ocetssa, l.prevssp] ++ l.reserved

/-- No two fields of the TCS share a byte and all lie in the page (R46, R47). -/
abbrev TcsLayout.wf (l : TcsLayout) : Prop :=
  (∀ f ∈ l.fields, f.offset + f.bytes ≤ 4096) ∧
  l.fields.Pairwise (fun f g => f.offset + f.bytes ≤ g.offset ∨ g.offset + g.bytes ≤ f.offset) ∧
  l.dbgoptin < 8 * l.flags.bytes

/-- A linear address has at least one and at most 64 implemented bits (R62). -/
abbrev Config.linearBitsWf (c : Config) : Prop := 1 ≤ c.linearBits ∧ c.linearBits ≤ 64

/-- The parameters are ones the rules allow. -/
abbrev Config.wf (c : Config) : Prop :=
  c.pt.wf ∧ c.errorsWf ∧ c.secinfo.wf ∧ c.tcs.wf ∧ c.linearBitsWf

end Sys2Proof
end

