-- ==== Sys2Proof/Safety.lean ====
section
/-! DEFINITION. The words the claims are stated in: the invariant of the state, the launch premises, the
conditions of the rules written out from the spec's text, and how a run ends. The conditions are written
apart from the Bool tests of Machine/Eaccept.lean, so that a claim compares the two. -/

namespace Sys2Proof.Machine

/-! ### The invariant -/

/-- A set of page addresses in canonical form: strictly rising 64-bit multiples of 4096 (R38). -/
abbrev PageSet.wf (l : List Nat) : Prop :=
  l.Pairwise (· < ·) ∧ ∀ p ∈ l, p % 4096 = 0 ∧ p < 2 ^ 64

/-- Launch premises P5 and P6 of R54. -/
abbrev State.launchWf (s : State) : Prop :=
  s.elrange.base.toNat % 4096 = 0 ∧ s.elrange.size.toNat % 4096 = 0 ∧
  s.elrange.base.toNat + s.elrange.size.toNat ≤ 2 ^ 64 ∧ s.activeSecs.toNat % 4096 = 0

/-- The invariant: canonical memories and tables, pc inside the address width (R25), RFLAGS bit 1 reading
as 1 (G6), the launch premises P5 and P6, and parameters the rules allow. -/
abbrev State.Inv (s : State) : Prop :=
  Memory.wf s.mem ∧ Memory.wf s.text ∧ PageSet.wf (keys s.epcm) ∧
  PageSet.wf (keys s.translation) ∧ (∀ c ∈ s.translation, pageOffset c.2 = 0) ∧
  PageSet.wf s.inUse ∧ PageSet.wf s.tracked ∧ PageSet.wf s.secsMode64 ∧
  (s.mode64 = false → s.pc.toNat < 2 ^ 32) ∧ s.rflags.getLsbD 1 = true ∧
  s.launchWf ∧ s.cfg.wf

/-! ### Conditions of the rules -/

/-- Launch premise P3 of R54: the seven conditions of G11, and outside 64-bit mode a usable DS (R63;
that the last is no condition in 64-bit mode is the model's choice, log 34). -/
structure State.CommonMet (s : State) : Prop where
  processor : { s.common with dsUsable := true } = CommonConditions.met
  ds : s.mode64 = false → s.common.dsUsable = true

/-- The launch premises P2, P3 and P4 of R54: EAX = 5, the conditions common to every ENCLU leaf, and
SGX2 present. -/
structure State.Admitted (s : State) : Prop where
  eax : s.eax = 5
  common : s.CommonMet
  sgx2 : s.cfg.sgx2Present = true

/-- The four address tests of an operand pass and it leads to `l` (R62 to R68). -/
structure State.OperandAt (s : State) (o : Operand) (l : Located) : Prop where
  form : s.addressForm o = true
  aligned : (s.linearAddress o).toNat % o.size = 0
  low : s.elrange.base.toNat ≤ (s.linearAddress o).toNat
  high : (s.linearAddress o).toNat + o.size ≤ s.elrange.base.toNat + s.elrange.size.toNat
  resolves : s.locate (s.linearAddress o) = some l

/-- None of the eight conditions of R116 holds of the SECINFO page's entry. -/
structure State.SecinfoPageGood (s : State) (e : EpcmEntry) : Prop where
  valid : e.valid = true
  readable : e.r = true
  notPending : e.pending = false
  notModified : e.modified = false
  notBlocked : e.blocked = false
  type : e.pt = s.cfg.pt.reg
  owner : e.enclaveSecs = s.activeSecs
  address : e.enclaveAddress =
    (match s.cfg.secinfoAddrCmp with
    | .page => s.linearAddress .secinfo &&& ~~~0xFFF
    | .literal => ((s.linearAddress .secinfo).setWidth 12).setWidth 64)

/-- Lines 2 to 8 of R110 pass and the copied SECINFO has the FLAGS `f`. -/
structure State.SecinfoPasses (s : State) (l : Located) (f : SecinfoFlags) : Prop where
  operand : s.OperandAt .secinfo l
  page : s.SecinfoPageGood l.entry
  reserved : ∀ r ∈ s.cfg.secinfo.reserved, ∀ i < r.len,
    (s.readSecinfo l.pa).getLsbD (r.lo + i) = false
  flags : f = secinfoFlags s.cfg.secinfo (s.readSecinfo l.pa)

/-- Clause A of a legal request (R123). -/
abbrev LegalA (t : PageTypes) (f : SecinfoFlags) : Prop :=
  f.pt = t.reg ∧ (f.pr = true ∨ f.pending = true) ∧ f.modified = false

/-- Clause B (R123). -/
abbrev LegalB (t : PageTypes) (f : SecinfoFlags) : Prop :=
  (f.pt = t.tcs ∨ f.pt = t.trim) ∧ f.pr = false ∧ f.pending = false ∧ f.modified = true

/-- Clause C (R123). -/
abbrev LegalC (t : PageTypes) (f : SecinfoFlags) : Prop :=
  (f.pt = t.ssFirst ∨ f.pt = t.ssRest) ∧ f.pending = true ∧ f.modified = false ∧ f.pr = false

/-- A legal request (R123). -/
abbrev Legal (t : PageTypes) (cet : Bool) (f : SecinfoFlags) : Prop :=
  LegalA t f ∨ LegalB t f ∨ (cet = true ∧ LegalC t f)

/-- One of the five page types a target may have (R125). -/
abbrev Admissible (t : PageTypes) (pt : BitVec 8) : Prop :=
  pt = t.reg ∨ pt = t.tcs ∨ pt = t.trim ∨ pt = t.ssFirst ∨ pt = t.ssRest

/-- None of the conditions of R125 holds of the target page's entry. -/
structure State.TargetGood (s : State) (t : EpcmEntry) : Prop where
  valid : t.valid = true
  notBlocked : t.blocked = false
  type : Admissible s.cfg.pt t.pt
  owner : t.enclaveSecs = s.activeSecs

/-- Lines 9 to 16 of R110 pass for the request `f`, with target `l`. -/
structure State.PagePasses (s : State) (f : SecinfoFlags) (l : Located) : Prop where
  operand : s.OperandAt .page l
  legal : Legal s.cfg.pt s.cfg.sgxAttrCet f
  target : s.TargetGood l.entry
  free : l.page ∉ s.inUse

/-- Both operands pass every test that can fault before the match: the request is `f`, the target `l`
(lines 1 to 16 of R110). -/
structure State.Ready (s : State) (f : SecinfoFlags) (l : Located) : Prop where
  admitted : s.Admitted
  inside : s.inEnclave = true
  secinfo : ∃ le, s.SecinfoPasses le f
  target : s.PagePasses f l

/-- None of the seven differences of R129 holds. -/
structure State.Matches (s : State) (f : SecinfoFlags) (t : EpcmEntry) : Prop where
  address : t.enclaveAddress = s.linearAddress .page
  pending : t.pending = f.pending
  modified : t.modified = f.modified
  r : t.r = f.r
  w : t.w = f.w
  x : t.x = f.x
  pt : t.pt = f.pt

/-- None of the conditions of R134 to R138 holds of the TCS at physical address `pa`, in the enclave
whose SECS is `tmpSecs`. -/
structure State.TcsFresh (s : State) (pa tmpSecs : Word) : Prop where
  reserved : ∀ f ∈ s.cfg.tcs.reserved, ∀ i < f.bytes,
    Memory.read s.mem (pa.toNat + f.offset + i) = 0
  dbgoptin : (s.tcsField pa s.cfg.tcs.flags).testBit s.cfg.tcs.dbgoptin = false
  aep : s.tcsField pa s.cfg.tcs.aep = 0
  state : s.tcsField pa s.cfg.tcs.state = 0
  saveAreas : s.tcsField pa s.cfg.tcs.cssa < s.tcsField pa s.cfg.tcs.nssa
  prevssp : s.cfg.cpuidCetSs = true → s.tcsField pa s.cfg.tcs.prevssp = 0
  limits : tmpSecs.toNat ∉ s.secsMode64 →
    s.tcsField pa s.cfg.tcs.fslimit % 2 ^ 12 = 0xFFF ∧
    s.tcsField pa s.cfg.tcs.gslimit % 2 ^ 12 = 0xFFF

/-- The success preconditions (1) to (8) of R202, with the launch premises: the request is `f`, the
target `l`. -/
structure State.Acceptable (s : State) (f : SecinfoFlags) (l : Located) : Prop where
  ready : s.Ready f l
  matched : s.Matches f l.entry
  tracked : l.page ∈ s.tracked
  tcs : f.pt = s.cfg.pt.tcs → s.TcsFresh l.pa l.entry.enclaveSecs

/-- The flags and pc every completed execution leaves (R141), ZF being `zf`. -/
structure Completed (s t : State) (zf : Bool) : Prop where
  zf : t.flag .zf = zf
  cf : t.flag .cf = false
  pf : t.flag .pf = false
  af : t.flag .af = false
  of : t.flag .of = false
  sf : t.flag .sf = false
  pc64 : s.mode64 = true → t.pc = s.pc + BitVec.ofNat 64 s.cfg.encluLength
  pc32 : s.mode64 = false → t.pc.toNat = (s.pc.toNat + s.cfg.encluLength) % 2 ^ 32

/-- What no completed execution changes (R142): every register but RAX, every RFLAGS bit but the six, DS,
the modes and control state, the parameters, the program text, every byte of memory, the translation, and
the lock and tracking state. The EPCM is stated apart. -/
structure Framed (s t : State) : Prop where
  regs : ∀ g, g ≠ .rax → t.reg g = s.reg g
  rflags : ∀ i, (∀ f : StatusFlag, i ≠ f.bit) → t.rflags.getLsbD i = s.rflags.getLsbD i
  ds : t.ds = s.ds
  mode64 : t.mode64 = s.mode64
  inEnclave : t.inEnclave = s.inEnclave
  elrange : t.elrange = s.elrange
  activeSecs : t.activeSecs = s.activeSecs
  common : t.common = s.common
  cfg : t.cfg = s.cfg
  text : ∀ a, Memory.read t.text a = Memory.read s.text a
  mem : ∀ a, Memory.read t.mem a = Memory.read s.mem a
  translation : t.translation = s.translation
  inUse : t.inUse = s.inUse
  tracked : t.tracked = s.tracked
  secsMode64 : t.secsMode64 = s.secsMode64

/-- From `s'` the instruction ends as from `s`: the same refusal, a fault of the same kind at the same
address carrying `s'`, or the completed state changed by `P`. The #PF error code is open (R168) and may
differ. -/
structure EndsAlike (P : State → State) (s s' : State) : Prop where
  next : ∀ t, exec .encluEaccept s = .next t → exec .encluEaccept s' = .next (P t)
  gp : ∀ c, exec .encluEaccept s = .fault (.gp c s) → exec .encluEaccept s' = .fault (.gp c s')
  pf : ∀ c la, exec .encluEaccept s = .fault (.pf c la s) →
    ∃ c', exec .encluEaccept s' = .fault (.pf c' la s')
  refused : ∀ r, exec .encluEaccept s = .refused r → exec .encluEaccept s' = .refused r

/-! ### How a run ends -/

/-- The three ways a run ends (70_reset_and_hazards.md R212, D34), and a run not yet ended. -/
inductive RunEnd where
  | fault (f : Fault)
  | refusal (r : Refusal) (at_ : State)
  /-- pc equals the address the launch names as the end of the program. -/
  | endAddress (s : State)
  | unfinished (s : State)
deriving DecidableEq, Repr

/-- At most `n` steps from `s`, until one of the ends of R212. -/
def runTo (endAddr : Word) : Nat → State → RunEnd
  | 0, s => if s.pc = endAddr then .endAddress s else .unfinished s
  | n + 1, s =>
    if s.pc = endAddr then .endAddress s
    else match step s with
      | .next t => runTo endAddr n t
      | .fault f => .fault f
      | .refused r => .refusal r s

end Sys2Proof.Machine
end

