-- ==== Sys2Proof/Certificates/Slice0/Obligations.lean ====
section
/-! DEFINITION. The statements for the provers. Conditions and results are written from the spec's
rules in the words of Sys2Proof/Safety.lean. -/

open Sys2Proof Sys2Proof.Machine

/-! ### Encoding, fetch and step -/

/-- The three bytes of 30_encoding.md R91 and R92, written bit by bit, are ENCLU, and so is the row
of spec/opcode_table.json with its first byte most significant (log 2, log 3). -/
def Obligations.EncluBytesDecode : Prop :=
  decode [0b00001111, 0b00000001, 0b11010111] = .ok (.encluEaccept, []) ∧
  decodeTableWord 24 0b000011110000000111010111 = some .encluEaccept

/-- The decoder reads exactly what the encoder writes: the three fixed bytes of R91, nothing else,
and never with a prefix in front (R96, R97; the bytes are G1, the refusals D3). -/
def Obligations.DecodeReadsExactlyTheEncoding : Prop :=
  (∀ i, encode i = [0x0F, 0x01, 0xD7]) ∧
  (∀ bs i rest, decode bs = .ok (i, rest) ↔ bs = encode i ++ rest) ∧
  (∀ b i rest, b ∈ [(0x66 : Byte), 0xF2, 0xF3, 0xF0] →
    decode (b :: (encode i ++ rest)) = .error (.prefixed b)) ∧
  (∀ nbits w i, decodeTableWord nbits w = some i ↔ ∃ rest, tableBytes nbits w = encode i ++ rest)

/-- The bytes a step looks at are the three at pc, and a step is the execution of what they decode
to; bytes that are no instruction are refused (R54 P1, R80, R96; D3, D27). -/
def Obligations.StepRunsTheDecodedInstruction : Prop :=
  (∀ s : State, s.fetch = [Memory.read s.text (s.pcPlus 0).toNat,
    Memory.read s.text (s.pcPlus 1).toNat, Memory.read s.text (s.pcPlus 2).toNat]) ∧
  (∀ (s : State) i rest, decode s.fetch = .ok (i, rest) → step s = exec i s) ∧
  (∀ (s : State) e, decode s.fetch = .error e → step s = .refused (.undecodable e))

/-- R80 and R91: the table word of ENCLU, first byte most significant (log 3), placed in the program
text at pc (log 11, log 32), is what the next step runs, at any pc, across the top of the address
space too, where fetch wraps as pc does (R25, D4, U21; log 26). -/
def Obligations.PlacedWordIsRun : Prop :=
  ∀ s : State, Memory.wf s.text →
    step (s.withFetchWord 24 0x0F01D7) = exec .encluEaccept (s.withFetchWord 24 0x0F01D7)

/-! ### The launch state and the invariant -/

/-- The launch state the model names (log 12) meets the invariant and the launch premises P2, P3,
P4. -/
def Obligations.LaunchStateMeetsInvariant : Prop := State.reset.Inv ∧ State.reset.Admitted

/-- From the launch state, which is outside any enclave (log 12, G11), a placed ENCLU runs and
raises #GP(0). -/
def Obligations.LaunchStateEncluFaultsOutsideEnclave : Prop :=
  step (State.reset.withFetchWord 24 0x0F01D7) =
    .fault (.gp 0 (State.reset.withFetchWord 24 0x0F01D7))

/-- Every step keeps the invariant: canonical memories and tables, the EPC a set of page addresses,
pc inside the address width, RFLAGS bit 1 (G6), the launch premises P5 and P6, the parameters (R38,
R25, R54; log 7 to 12, 23, 26). -/
def Obligations.StepKeepsInvariant : Prop :=
  ∀ s t : State, s.Inv → step s = .next t → t.Inv

/-! ### When the model gives no outcome -/

/-- ENCLU is refused exactly when a launch premise P2, P3 or P4 fails, and with the others met an
EAX other than 5 is refused as another leaf (R54, R95; D2, D3; log 14, log 15; that P3 asks for a
usable DS only outside 64-bit mode is the model's choice, log 34). -/
def Obligations.RefusedExactlyWithoutLaunchPremises : Prop :=
  (∀ s : State, (∃ r, exec .encluEaccept s = .refused r) ↔ ¬ s.Admitted) ∧
  (∀ s : State, s.CommonMet → s.cfg.sgx2Present = true → s.eax ≠ 5 →
    exec .encluEaccept s = .refused (.otherLeaf s.eax))

/-! ### Address formation -/

/-- R60 and R61. The effective address is the register itself in 64-bit mode and its low 32 bits,
zero-extended, outside it; the linear address is the effective address in 64-bit mode, and outside
it that added to the low 32 bits of DS.base modulo 2^32 (D5, D6, G14; log 18). -/
def Obligations.LinearAddressByMode : Prop :=
  ∀ s : State,
    (s.mode64 = true →
      s.effectiveAddress .secinfo = s.reg .rbx ∧ s.effectiveAddress .page = s.reg .rcx ∧
      s.linearAddress .secinfo = s.reg .rbx ∧ s.linearAddress .page = s.reg .rcx) ∧
    (s.mode64 = false →
      (s.effectiveAddress .secinfo).toNat = (s.reg .rbx).toNat % 2 ^ 32 ∧
      (s.effectiveAddress .page).toNat = (s.reg .rcx).toNat % 2 ^ 32 ∧
      (s.linearAddress .secinfo).toNat =
        (s.ds.base.toNat % 2 ^ 32 + (s.reg .rbx).toNat % 2 ^ 32) % 2 ^ 32 ∧
      (s.linearAddress .page).toNat =
        (s.ds.base.toNat % 2 ^ 32 + (s.reg .rcx).toNat % 2 ^ 32) % 2 ^ 32)

/-- R62: canonical means that bits 63 down to LINEAR_BITS-1 are all equal (G14; log 18). -/
def Obligations.CanonicalWhenHighBitsEqual : Prop :=
  ∀ (n : Nat) (a : Word), 1 ≤ n → n ≤ 64 →
    (canonical n a = true ↔ ∀ i, n - 1 ≤ i → i < 64 → a.getLsbD i = a.getLsbD (n - 1))

/-- R64: "within CR_ELRANGE" counts the operand's bytes without wrap-around, and under premise P5
and alignment it is the same as the first byte lying in the range (D8; log 33). -/
def Obligations.ElrangeTestOnAlignedOperands : Prop :=
  (∀ (e : Elrange) (a : Word) (n : Nat), withinElrange e a n = true ↔
    e.base.toNat ≤ a.toNat ∧ a.toNat + n ≤ e.base.toNat + e.size.toNat) ∧
  (∀ (s : State) (o : Operand), s.launchWf → (s.linearAddress o).toNat % o.size = 0 →
    (s.inRange o = true ↔ s.elrange.base.toNat ≤ (s.linearAddress o).toNat ∧
      (s.linearAddress o).toNat < s.elrange.base.toNat + s.elrange.size.toNat))

/-- R65: an aligned SECINFO lies in one page, an aligned page address is its own page base, and a
misaligned operand raises #GP(0) and does nothing else, once the tests before it have passed (their
order: log 16). -/
def Obligations.AlignmentOfOperands : Prop :=
  (∀ s : State, (s.linearAddress .secinfo).toNat % 64 = 0 → ∀ i < 64,
    pageBase (s.linearAddress .secinfo + BitVec.ofNat 64 i) = pageBase (s.linearAddress .secinfo)) ∧
  (∀ s : State, (s.linearAddress .page).toNat % 4096 = 0 →
    s.linearAddress .page &&& ~~~0xFFF = s.linearAddress .page) ∧
  (∀ s : State, s.Admitted → s.inEnclave = true → (s.linearAddress .secinfo).toNat % 64 ≠ 0 →
    exec .encluEaccept s = .fault (.gp 0 s)) ∧
  (∀ (s : State) le f, s.Admitted → s.inEnclave = true → s.SecinfoPasses le f →
    (s.linearAddress .page).toNat % 4096 ≠ 0 → exec .encluEaccept s = .fault (.gp 0 s))

/-- R66 to R68: translation keeps the offset in the page; an address leads to an EPCM entry exactly
when its translation succeeds and the page it reaches is listed in the EPCM, which is the EPC, and
the entry is that page's (D9; log 7, log 8). -/
def Obligations.EpcmEntryOfAddress : Prop :=
  (∀ (s : State) la pa, s.translate la .read = some pa → pa.extractLsb 11 0 = la.extractLsb 11 0) ∧
  (∀ (s : State) la l, s.locate la = some l ↔
    s.translate la .read = some l.pa ∧ lookup (l.pa &&& ~~~0xFFF).toNat s.epcm = some l.entry) ∧
  (∀ (s : State) la, s.locate la = none ↔
    ∀ pa, s.translate la .read = some pa → (pa &&& ~~~0xFFF).toNat ∉ keys s.epcm)

/-- R70 to R72: SECINFO and TCS fields are little-endian, the byte at the lowest address in bits 7:0
(D7, G8; log 19). -/
def Obligations.StructuresReadLittleEndian : Prop :=
  (∀ (s : State) (pa : Word) (i : Nat), i < 512 →
    (s.readSecinfo pa).getLsbD i = (Memory.read s.mem (pa.toNat + i / 8)).getLsbD (i % 8)) ∧
  (∀ (s : State) (pa : Word) (f : TcsField) (i : Nat), i < 8 * f.bytes →
    (s.tcsField pa f).testBit i =
      (Memory.read s.mem (pa.toNat + f.offset + i / 8)).getLsbD (i % 8)) ∧
  (∀ (s : State) (pa : Word) (f : TcsField), s.tcsField pa f < 2 ^ (8 * f.bytes))

/-- R44 (G2, log 20): under the default layout FLAGS has R, W, X, PENDING, MODIFIED, PR in bits 0 to
5 and PT in bits 15:8, and the reserved bits are 7:6, 63:16 and bytes 8 to 63. -/
def Obligations.DefaultSecinfoLayoutBits : Prop :=
  ∀ v : BitVec 512,
    secinfoFlags defaultSecinfoLayout v =
      { r := v.getLsbD 0, w := v.getLsbD 1, x := v.getLsbD 2, pending := v.getLsbD 3,
        modified := v.getLsbD 4, pr := v.getLsbD 5, pt := v.extractLsb' 8 8 } ∧
    (secinfoReservedZero defaultSecinfoLayout v = true ↔
      ∀ i < 512, (i = 6 ∨ i = 7 ∨ 16 ≤ i) → v.getLsbD i = false)

/-! ### The tests, in their order -/

/-- R111 (its place in the order is D33; log 16): outside an enclave the instruction raises #GP(0),
whatever the operands. -/
def Obligations.OutsideEnclaveFaults : Prop :=
  ∀ s : State, s.Admitted → s.inEnclave = false → exec .encluEaccept s = .fault (.gp 0 s)

/-- R112, R119 with R62 and R63 (D6, G14; log 16, log 18). An operand has a good form exactly when,
in 64-bit mode, its register is the sign-extension of its low LINEAR_BITS bits, and, outside it, all
its bytes lie inside the DS limit; an operand of another form raises #GP(0). -/
def Obligations.AddressFormFaults : Prop :=
  (∀ s : State,
    (s.addressForm .secinfo = true ↔
      (s.mode64 = true ∧ s.reg .rbx = ((s.reg .rbx).setWidth s.cfg.linearBits).signExtend 64) ∨
      (s.mode64 = false ∧ (s.reg .rbx).toNat % 2 ^ 32 + 63 ≤ s.ds.limit.toNat)) ∧
    (s.addressForm .page = true ↔
      (s.mode64 = true ∧ s.reg .rcx = ((s.reg .rcx).setWidth s.cfg.linearBits).signExtend 64) ∨
      (s.mode64 = false ∧ (s.reg .rcx).toNat % 2 ^ 32 + 4095 ≤ s.ds.limit.toNat))) ∧
  ∀ s : State, s.Admitted → s.inEnclave = true →
    (s.mode64 = true →
      s.reg .rbx ≠ ((s.reg .rbx).setWidth s.cfg.linearBits).signExtend 64 →
      exec .encluEaccept s = .fault (.gp 0 s)) ∧
    (s.mode64 = false → s.ds.limit.toNat < (s.reg .rbx).toNat % 2 ^ 32 + 63 →
      exec .encluEaccept s = .fault (.gp 0 s)) ∧
    (∀ le f, s.SecinfoPasses le f → s.mode64 = true →
      s.reg .rcx ≠ ((s.reg .rcx).setWidth s.cfg.linearBits).signExtend 64 →
      exec .encluEaccept s = .fault (.gp 0 s)) ∧
    (∀ le f, s.SecinfoPasses le f → s.mode64 = false →
      s.ds.limit.toNat < (s.reg .rcx).toNat % 2 ^ 32 + 4095 →
      exec .encluEaccept s = .fault (.gp 0 s))

/-- R113, R114, R115: the SECINFO operand's alignment and range raise #GP(0), the range counting all
64 bytes (D8; log 33); with the address tests passed, the form test among them first (D6; log 16),
an address that does not resolve within an EPC raises #PF at LA_SECINFO (D9; log 7, log 8). -/
def Obligations.SecinfoAddressFaults : Prop :=
  ∀ s : State, s.Admitted → s.inEnclave = true →
    ((s.linearAddress .secinfo).toNat % 64 ≠ 0 → exec .encluEaccept s = .fault (.gp 0 s)) ∧
    (¬ (s.elrange.base.toNat ≤ (s.linearAddress .secinfo).toNat ∧
        (s.linearAddress .secinfo).toNat + 64 ≤ s.elrange.base.toNat + s.elrange.size.toNat) →
      exec .encluEaccept s = .fault (.gp 0 s)) ∧
    (s.addressForm .secinfo = true → (s.linearAddress .secinfo).toNat % 64 = 0 →
      s.elrange.base.toNat ≤ (s.linearAddress .secinfo).toNat →
      (s.linearAddress .secinfo).toNat + 64 ≤ s.elrange.base.toNat + s.elrange.size.toNat →
      s.locate (s.linearAddress .secinfo) = none →
      exec .encluEaccept s =
        .fault (.pf (Config.pfec .secinfoResolve s) (s.linearAddress .secinfo) s))

/-- R116 (the eighth condition is read by D10, C2; log 17): any of the eight conditions on the
SECINFO page's entry raises #PF at LA_SECINFO. -/
def Obligations.SecinfoPageFaults : Prop :=
  ∀ (s : State) (l : Located), s.Admitted → s.inEnclave = true → s.OperandAt .secinfo l →
    (l.entry.valid = false ∨ l.entry.r = false ∨ l.entry.pending = true ∨
      l.entry.modified = true ∨ l.entry.blocked = true ∨ l.entry.pt ≠ s.cfg.pt.reg ∨
      l.entry.enclaveSecs ≠ s.activeSecs ∨
      (s.cfg.secinfoAddrCmp = .page ∧
        l.entry.enclaveAddress ≠ (s.linearAddress .secinfo &&& ~~~0xFFF)) ∨
      (s.cfg.secinfoAddrCmp = .literal ∧
        l.entry.enclaveAddress ≠ (s.linearAddress .secinfo &&& 0xFFF))) →
    exec .encluEaccept s =
      .fault (.pf (Config.pfec .secinfoAttributes s) (s.linearAddress .secinfo) s)

/-- R118 (the reserved fields are the parameter SecinfoLayout, D11; log 20): a reserved bit that is
1 raises #GP(0), once the SECINFO page has passed. -/
def Obligations.SecinfoReservedFaults : Prop :=
  ∀ (s : State) (l : Located) (r : BitRange) (i : Nat), s.Admitted → s.inEnclave = true →
    s.OperandAt .secinfo l → s.SecinfoPageGood l.entry →
    r ∈ s.cfg.secinfo.reserved → i < r.len → (s.readSecinfo l.pa).getLsbD (r.lo + i) = true →
    exec .encluEaccept s = .fault (.gp 0 s)

/-- R120, R121, R122: the page operand's alignment and range raise #GP(0), the range counting all
4096 bytes (D8; log 33); with the address tests passed, the form test among them first (D6; log 16),
an address that does not resolve within an EPC raises #PF at LA_PAGE (D9; log 7, log 8), before the
request is judged. -/
def Obligations.PageAddressFaults : Prop :=
  ∀ (s : State) (le : Located) (f : SecinfoFlags), s.Admitted → s.inEnclave = true →
    s.SecinfoPasses le f →
    ((s.linearAddress .page).toNat % 4096 ≠ 0 → exec .encluEaccept s = .fault (.gp 0 s)) ∧
    (¬ (s.elrange.base.toNat ≤ (s.linearAddress .page).toNat ∧
        (s.linearAddress .page).toNat + 4096 ≤ s.elrange.base.toNat + s.elrange.size.toNat) →
      exec .encluEaccept s = .fault (.gp 0 s)) ∧
    (s.addressForm .page = true → (s.linearAddress .page).toNat % 4096 = 0 →
      s.elrange.base.toNat ≤ (s.linearAddress .page).toNat →
      (s.linearAddress .page).toNat + 4096 ≤ s.elrange.base.toNat + s.elrange.size.toNat →
      s.locate (s.linearAddress .page) = none →
      exec .encluEaccept s = .fault (.pf (Config.pfec .pageResolve s) (s.linearAddress .page) s))

/-- R123: the definition of a legal request, clause by clause; R, W and X play no part. -/
def Obligations.LegalRequestClauses : Prop :=
  ∀ (t : PageTypes) (f : SecinfoFlags) (r w x : Bool),
    let A := f.pt = t.reg ∧ (f.pr = true ∨ f.pending = true) ∧ f.modified = false
    let B := (f.pt = t.tcs ∨ f.pt = t.trim) ∧ f.pr = false ∧ f.pending = false ∧ f.modified = true
    let C := (f.pt = t.ssFirst ∨ f.pt = t.ssRest) ∧ f.pending = true ∧ f.modified = false ∧
      f.pr = false
    (legalRequest t false f = true ↔ A ∨ B) ∧
    (legalRequest t true f = true ↔ A ∨ B ∨ C) ∧
    (∀ cet, legalRequest t cet { f with r := r, w := w, x := x } = legalRequest t cet f) ∧
    (f.pt ∉ [t.reg, t.tcs, t.trim, t.ssFirst, t.ssRest] → ∀ cet, legalRequest t cet f = false)

/-- R124: a request that is not legal raises #GP(0), after the page operand has been shown to
resolve within an EPC and whatever the target page's entry. -/
def Obligations.IllegalRequestFaults : Prop :=
  ∀ (s : State) (le l : Located) (f : SecinfoFlags), s.Admitted → s.inEnclave = true →
    s.SecinfoPasses le f → s.OperandAt .page l → legalRequest s.cfg.pt s.cfg.sgxAttrCet f = false →
    exec .encluEaccept s = .fault (.gp 0 s)

/-- R125: a target page that is not valid, blocked, of another type or of another enclave raises #PF
at LA_PAGE, once the request is legal; and a target page that is none of these raises no #PF,
whatever the request, since in the atomic step the re-check of R128 never fires (D16; log 24).
Neither clause asks for a value of SGX_ATTR_CET: the five types are admissible under both. -/
def Obligations.TargetPageFaults : Prop :=
  ∀ (s : State) (le l : Located) (f : SecinfoFlags), s.Admitted → s.inEnclave = true →
    s.SecinfoPasses le f → s.OperandAt .page l →
    (Legal s.cfg.pt s.cfg.sgxAttrCet f →
      (l.entry.valid = false ∨ l.entry.blocked = true ∨
        l.entry.pt ∉ [s.cfg.pt.reg, s.cfg.pt.tcs, s.cfg.pt.trim, s.cfg.pt.ssFirst, s.cfg.pt.ssRest] ∨
        l.entry.enclaveSecs ≠ s.activeSecs) →
      exec .encluEaccept s =
        .fault (.pf (Config.pfec .pageAttributes s) (s.linearAddress .page) s)) ∧
    (l.entry.valid = true → l.entry.blocked = false →
      l.entry.pt ∈ [s.cfg.pt.reg, s.cfg.pt.tcs, s.cfg.pt.trim, s.cfg.pt.ssFirst, s.cfg.pt.ssRest] →
      l.entry.enclaveSecs = s.activeSecs → ∀ c la s', exec .encluEaccept s ≠ .fault (.pf c la s'))

/-- R127: a target page another thread holds raises #GP(0), once its entry has passed R125. What
holds a page is open (D14): here any list of pages in the state, the model's choice (log 6). -/
def Obligations.LockedPageFaults : Prop :=
  ∀ (s : State) (le l : Located) (f : SecinfoFlags), s.Admitted → s.inEnclave = true →
    s.SecinfoPasses le f → s.OperandAt .page l → Legal s.cfg.pt s.cfg.sgxAttrCet f →
    s.TargetGood l.entry → l.page ∈ s.inUse → exec .encluEaccept s = .fault (.gp 0 s)

/-- R133 to R138 (the TCS layout and the widths are D18, log 21; the SECS bit D29, log 9): for a
PT_TCS request that matches and is tracked, each malformed part of the page's contents raises
#GP(0); CSSA and NSSA compare as unsigned numbers, PREVSSP counts only with CPUID_CET_SS, and the
limits only for an enclave whose SECS says it is not a 64-bit one. -/
def Obligations.TcsContentsFaults : Prop :=
  ∀ (s : State) (f : SecinfoFlags) (l : Located), s.Ready f l → s.Matches f l.entry →
    l.page ∈ s.tracked → f.pt = s.cfg.pt.tcs →
    ((∃ r ∈ s.cfg.tcs.reserved, ∃ i < r.bytes,
        Memory.read s.mem (l.pa.toNat + r.offset + i) ≠ 0) ∨
      (s.tcsField l.pa s.cfg.tcs.flags).testBit s.cfg.tcs.dbgoptin = true ∨
      s.tcsField l.pa s.cfg.tcs.aep ≠ 0 ∨ s.tcsField l.pa s.cfg.tcs.state ≠ 0 ∨
      s.tcsField l.pa s.cfg.tcs.nssa ≤ s.tcsField l.pa s.cfg.tcs.cssa ∨
      (s.cfg.cpuidCetSs = true ∧ s.tcsField l.pa s.cfg.tcs.prevssp ≠ 0) ∨
      (s.activeSecs.toNat ∉ s.secsMode64 ∧
        (s.tcsField l.pa s.cfg.tcs.fslimit % 4096 ≠ 0xFFF ∨
          s.tcsField l.pa s.cfg.tcs.gslimit % 4096 ≠ 0xFFF))) →
    exec .encluEaccept s = .fault (.gp 0 s)

/-! ### Completion -/

/-- R139 with R140 to R142 (D20, D4, D21; log 2, log 25, log 30): under the preconditions of R202
the instruction completes: PENDING, MODIFIED and PR of the target's entry are cleared and every
other field and entry kept, RAX is 0, ZF and the other five flags are 0, pc is advanced, and nothing
else changes. -/
def Obligations.AcceptCompletes : Prop :=
  ∀ (s : State) (f : SecinfoFlags) (l : Located), s.Acceptable f l →
    ∃ t, exec .encluEaccept s = .next t ∧ t.reg .rax = 0 ∧ Completed s t false ∧ Framed s t ∧
      lookup l.page t.epcm =
        some { l.entry with pending := false, modified := false, pr := false } ∧
      (∀ p, p ≠ l.page → lookup p t.epcm = lookup p s.epcm) ∧ keys t.epcm = keys s.epcm

/-- R129 and R130: a request that differs from the page in any of the seven points completes with ZF
= 1 and SGX_PAGE_ATTRIBUTES_MISMATCH in RAX, whatever the tracking state and the page's contents
(R151), and no EPCM entry changes; pc and the frame are R141 and R142 (log 2, log 25). -/
def Obligations.MismatchCompletes : Prop :=
  ∀ (s : State) (f : SecinfoFlags) (l : Located), s.Ready f l →
    (l.entry.enclaveAddress ≠ s.linearAddress .page ∨ l.entry.pending ≠ f.pending ∨
      l.entry.modified ≠ f.modified ∨ l.entry.r ≠ f.r ∨ l.entry.w ≠ f.w ∨ l.entry.x ≠ f.x ∨
      l.entry.pt ≠ f.pt) →
    ∃ t, exec .encluEaccept s = .next t ∧ t.reg .rax = s.cfg.pageAttributesMismatch ∧
      Completed s t true ∧ Framed s t ∧ t.epcm = s.epcm

/-- R131 (tracking is the parameter of D15; log 6; pc and the frame: log 2, log 25): a request that
matches but whose page is not correctly tracked completes with ZF = 1 and SGX_NOT_TRACKED in RAX,
whatever the page's contents, and no EPCM entry changes. -/
def Obligations.NotTrackedCompletes : Prop :=
  ∀ (s : State) (f : SecinfoFlags) (l : Located), s.Ready f l → s.Matches f l.entry →
    l.page ∉ s.tracked →
    ∃ t, exec .encluEaccept s = .next t ∧ t.reg .rax = s.cfg.notTracked ∧
      Completed s t true ∧ Framed s t ∧ t.epcm = s.epcm

/-- R26 (the bit positions are G6; log 23): on success ZF is 0, with an error code ZF is 1, CF, PF,
AF, OF and SF are 0 on all three paths; a fault writes no flag; and no flag is read: with other
values in RFLAGS the execution refuses, faults or completes alike, and the completed state differs
in RFLAGS alone. -/
def Obligations.StatusFlagsWrittenAndNotRead : Prop :=
  (∀ s t : State, exec .encluEaccept s = .next t →
    ((t.reg .rax = 0 ∧ t.flag .zf = false) ∨
      ((t.reg .rax = s.cfg.pageAttributesMismatch ∨ t.reg .rax = s.cfg.notTracked) ∧
        t.flag .zf = true)) ∧
    t.flag .cf = false ∧ t.flag .pf = false ∧ t.flag .af = false ∧ t.flag .of = false ∧
    t.flag .sf = false) ∧
  (∀ (s : State) e, exec .encluEaccept s = .fault e →
    (∃ c, e = .gp c s) ∨ ∃ c la, e = .pf c la s) ∧
  (∀ (s : State) (v : Word),
    (∀ t, exec .encluEaccept s = .next t →
      ∃ v', exec .encluEaccept { s with rflags := v } = .next { t with rflags := v' }) ∧
    (∀ c, exec .encluEaccept s = .fault (.gp c s) →
      exec .encluEaccept { s with rflags := v } = .fault (.gp c { s with rflags := v })) ∧
    (∀ c la, exec .encluEaccept s = .fault (.pf c la s) →
      ∃ c', exec .encluEaccept { s with rflags := v } = .fault (.pf c' la { s with rflags := v })) ∧
    (∀ r, exec .encluEaccept s = .refused r →
      exec .encluEaccept { s with rflags := v } = .refused r))

/-- R142 and R52 (derived in the spec, D21; log 25): the frame of every completed execution. Outside
RAX, the six flags, pc and the marks PENDING, MODIFIED and PR of the entry LA_PAGE leads to, nothing
changes, and with an error code no EPCM entry changes at all. -/
def Obligations.CompletedExecutionFrame : Prop :=
  ∀ s t : State, exec .encluEaccept s = .next t →
    Framed s t ∧ keys t.epcm = keys s.epcm ∧
    (∀ l, s.locate (s.linearAddress .page) = some l →
      (∀ p, p ≠ l.page → lookup p t.epcm = lookup p s.epcm) ∧
      ∃ e, lookup l.page t.epcm = some e ∧ e.valid = l.entry.valid ∧ e.r = l.entry.r ∧
        e.w = l.entry.w ∧ e.x = l.entry.x ∧ e.pt = l.entry.pt ∧
        e.enclaveSecs = l.entry.enclaveSecs ∧ e.enclaveAddress = l.entry.enclaveAddress ∧
        e.blocked = l.entry.blocked) ∧
    (t.flag .zf = true → t.epcm = s.epcm)

/-! ### Whole-instruction rules -/

/-- R161: with the launch premises, #GP(0) is raised exactly at the sites 1 to 4, 8 to 11, 13, 15
and 20, each when every test before it has passed (the order: D6, D33; log 16), and its error code
is always 0. -/
def Obligations.GpExactlyAtItsSites : Prop :=
  ∀ s : State, s.Admitted →
    ((∃ c, exec .encluEaccept s = .fault (.gp c s)) ↔
      s.inEnclave = false ∨
      (s.inEnclave = true ∧
        (s.addressForm .secinfo = false ∨ (s.linearAddress .secinfo).toNat % 64 ≠ 0 ∨
          s.inRange .secinfo = false ∨
          (∃ le, s.OperandAt .secinfo le ∧ s.SecinfoPageGood le.entry ∧
            ∃ r ∈ s.cfg.secinfo.reserved, ∃ i < r.len,
              (s.readSecinfo le.pa).getLsbD (r.lo + i) = true) ∨
          ∃ le f, s.SecinfoPasses le f ∧
            (s.addressForm .page = false ∨ (s.linearAddress .page).toNat % 4096 ≠ 0 ∨
              s.inRange .page = false ∨
              ∃ l, s.OperandAt .page l ∧
                (¬ Legal s.cfg.pt s.cfg.sgxAttrCet f ∨
                  (Legal s.cfg.pt s.cfg.sgxAttrCet f ∧ s.TargetGood l.entry ∧
                    (l.page ∈ s.inUse ∨
                      (l.page ∉ s.inUse ∧ s.Matches f l.entry ∧ l.page ∈ s.tracked ∧
                        f.pt = s.cfg.pt.tcs ∧ ¬ s.TcsFresh l.pa l.entry.enclaveSecs)))))))) ∧
    (∀ c s', exec .encluEaccept s = .fault (.gp c s') → c = 0 ∧ s' = s)

/-- R163 (the order: D6, D33; log 16): with the launch premises, #PF is raised exactly at the sites
5, 6, 12 and 14, each when every test before it has passed, at LA_SECINFO for the first two and at
LA_PAGE for the others; site 16 is never reached, since the whole execution is one step (R128, D16;
log 24). -/
def Obligations.PfExactlyAtItsSites : Prop :=
  ∀ (s : State) (la : Word), s.Admitted →
    ((∃ c, exec .encluEaccept s = .fault (.pf c la s)) ↔
      s.inEnclave = true ∧
      ((la = s.linearAddress .secinfo ∧
          ((s.addressForm .secinfo = true ∧ (s.linearAddress .secinfo).toNat % 64 = 0 ∧
              s.inRange .secinfo = true ∧ s.locate (s.linearAddress .secinfo) = none) ∨
            ∃ le, s.OperandAt .secinfo le ∧ ¬ s.SecinfoPageGood le.entry)) ∨
        (la = s.linearAddress .page ∧ ∃ le f, s.SecinfoPasses le f ∧
          ((s.addressForm .page = true ∧ (s.linearAddress .page).toNat % 4096 = 0 ∧
              s.inRange .page = true ∧ s.locate (s.linearAddress .page) = none) ∨
            ∃ l, s.OperandAt .page l ∧ Legal s.cfg.pt s.cfg.sgxAttrCet f ∧
              ¬ s.TargetGood l.entry))))

/-- R202 (derived in the spec): with the launch premises, the instruction returns 0 with ZF = 0
exactly when the eight preconditions hold; the two signs of success, ZF and RAX, agree when the
error codes are not 0 (R170, R48). Inside the preconditions stand the address forms of D6 (log 16,
log 18), the range of D8 (log 33) and the SECINFO page address of D10 (log 17). -/
def Obligations.SucceedsExactlyUnderPreconditions : Prop :=
  ∀ s : State,
    ((∃ t, exec .encluEaccept s = .next t ∧ t.flag .zf = false) ↔ ∃ f l, s.Acceptable f l) ∧
    (s.cfg.errorsWf →
      ((∃ t, exec .encluEaccept s = .next t ∧ t.reg .rax = 0) ↔ ∃ f l, s.Acceptable f l))

/-- R144 (derived in the spec): from a state that meets the launch premises one execution has one of
the five outcomes, and a fault of either kind carries the unchanged state (R143, R175). -/
def Obligations.OneOfFiveOutcomes : Prop :=
  ∀ s : State, s.Admitted →
    exec .encluEaccept s = .fault (.gp 0 s) ∨
    (∃ site la, (la = s.linearAddress .secinfo ∨ la = s.linearAddress .page) ∧
      exec .encluEaccept s = .fault (.pf (Config.pfec site s) la s)) ∨
    (∃ t, exec .encluEaccept s = .next t ∧ t.epcm = s.epcm ∧
      t.reg .rax = s.cfg.pageAttributesMismatch ∧ t.flag .zf = true) ∨
    (∃ t, exec .encluEaccept s = .next t ∧ t.epcm = s.epcm ∧
      t.reg .rax = s.cfg.notTracked ∧ t.flag .zf = true) ∨
    (∃ t l, exec .encluEaccept s = .next t ∧ s.locate (s.linearAddress .page) = some l ∧
      t.epcm = updateAt l.page EpcmEntry.accepted s.epcm ∧ t.reg .rax = 0 ∧ t.flag .zf = false)

/-! ### Consequences -/

/-- R155 and R21 (D3, D20; log 30): RAX[63:32] on entry plays no part: the execution ends alike, and
a completed one in the same state. -/
def Obligations.UpperHalfOfRaxIgnored : Prop :=
  ∀ (s : State) (v : Word), v.setWidth 32 = s.eax → EndsAlike id s (s.setReg .rax v)

/-- R207 (derived in the spec): after a completed execution RAX holds 0 or an error code, so unless
an error code reads as 5 an ENCLU executed in that very state, no other step between (log 1),
selects another leaf, and that is refused (R95, D3; log 14). -/
def Obligations.EaxMustBeReloaded : Prop :=
  ∀ s t : State, s.cfg.pageAttributesMismatch.setWidth 32 ≠ (5 : BitVec 32) →
    s.cfg.notTracked.setWidth 32 ≠ (5 : BitVec 32) → exec .encluEaccept s = .next t →
    exec .encluEaccept t = .refused (.otherLeaf t.eax)

/-- R145 and U16 (derived in the spec): PR of the entry the page operand leads to is never read.
With the other value there the execution refuses, faults or completes alike; with an error code the
completed state differs in that PR alone, and on success, which clears it, in nothing. -/
def Obligations.TargetPrNeverRead : Prop :=
  ∀ (s : State) (l : Located) (b : Bool), s.locate (s.linearAddress .page) = some l →
    EndsAlike
      (fun t => if t.flag .zf then t.updateEpcm l.page fun e => { e with pr := b } else t)
      s (s.updateEpcm l.page fun e => { e with pr := b })

/-- R73 and R145 (derived in the spec): a second execution with EAX reloaded, after a success,
succeeds again and changes no EPCM entry when the request has PENDING = 0 and MODIFIED = 0, and
returns SGX_PAGE_ATTRIBUTES_MISMATCH otherwise. Between the two nothing but EAX changes: no other
agent acts (log 1), and tracking, lock and EPCM stay as the first left them (log 6). -/
def Obligations.SecondExecutionAfterSuccess : Prop :=
  ∀ (s t : State) (f : SecinfoFlags) (l : Located), s.Acceptable f l →
    exec .encluEaccept s = .next t →
    ∃ u, exec .encluEaccept (t.setReg .rax 5) = .next u ∧ u.epcm = t.epcm ∧
      (f.pending = false ∧ f.modified = false → u.reg .rax = 0 ∧ u.flag .zf = false) ∧
      (f.pending = true ∨ f.modified = true →
        u.reg .rax = s.cfg.pageAttributesMismatch ∧ u.flag .zf = true)

/-- R148 (derived in the spec): without SGX_ATTR_CET a shadow-stack request never completes, and a
shadow-stack page is never accepted: an execution that completes on one returns
SGX_PAGE_ATTRIBUTES_MISMATCH. -/
def Obligations.ShadowStackNeedsCet : Prop :=
  ∀ (s t : State) (le l : Located) (f : SecinfoFlags), s.cfg.pt.wf → s.cfg.sgxAttrCet = false →
    exec .encluEaccept s = .next t → s.SecinfoPasses le f → s.OperandAt .page l →
    (f.pt ≠ s.cfg.pt.ssFirst ∧ f.pt ≠ s.cfg.pt.ssRest) ∧
    (l.entry.pt = s.cfg.pt.ssFirst ∨ l.entry.pt = s.cfg.pt.ssRest →
      t.reg .rax = s.cfg.pageAttributesMismatch ∧ t.flag .zf = true ∧ t.epcm = s.epcm)

/-- R149 (derived in the spec): a request whose type is none of the five raises #GP(0) whatever its
other bits and whatever the target's entry; a target whose type is none of the five raises #PF only
under a legal request, and #GP(0) under any other. -/
def Obligations.OtherPageTypesNeverComplete : Prop :=
  ∀ (s : State) (le l : Located) (f : SecinfoFlags), s.Admitted → s.inEnclave = true →
    s.SecinfoPasses le f → s.OperandAt .page l →
    (¬ Admissible s.cfg.pt f.pt → exec .encluEaccept s = .fault (.gp 0 s)) ∧
    (¬ Admissible s.cfg.pt l.entry.pt →
      (Legal s.cfg.pt s.cfg.sgxAttrCet f ∧ exec .encluEaccept s =
        .fault (.pf (Config.pfec .pageAttributes s) (s.linearAddress .page) s)) ∨
      (¬ Legal s.cfg.pt s.cfg.sgxAttrCet f ∧ exec .encluEaccept s = .fault (.gp 0 s)))

/-- R152 (derived in the spec). Under every request that passes the tests before the match, a page
with PENDING and MODIFIED both set ends in SGX_PAGE_ATTRIBUTES_MISMATCH, and a page with neither
does so unless the request is the permission restriction, PT_REG with PR = 1 and PENDING = 0; and a
request with none of the three marks is not legal and raises #GP(0). -/
def Obligations.UnmatchableMarksMismatch : Prop :=
  (∀ (s : State) (f : SecinfoFlags) (l : Located), s.Ready f l →
    (l.entry.pending = true ∧ l.entry.modified = true) ∨
      (l.entry.pending = false ∧ l.entry.modified = false ∧
        ¬ (f.pt = s.cfg.pt.reg ∧ f.pr = true ∧ f.pending = false)) →
    ∃ t, exec .encluEaccept s = .next t ∧ t.reg .rax = s.cfg.pageAttributesMismatch ∧
      t.flag .zf = true ∧ t.epcm = s.epcm) ∧
  (∀ (s : State) (le l : Located) (f : SecinfoFlags), s.Admitted → s.inEnclave = true →
    s.SecinfoPasses le f → s.OperandAt .page l →
    f.pending = false → f.modified = false → f.pr = false →
    exec .encluEaccept s = .fault (.gp 0 s))

/-- R153 (derived in the spec; D28; log 27): when the SECINFO lies in the target page itself, an
execution that succeeds was the permission-restriction accept, of a readable PT_REG page. -/
def Obligations.SecinfoInsideTargetPage : Prop :=
  ∀ (s t : State) (f : SecinfoFlags) (le l : Located), exec .encluEaccept s = .next t →
    t.flag .zf = false → s.locate (s.linearAddress .secinfo) = some le →
    s.locate (s.linearAddress .page) = some l → le.page = l.page →
    f = secinfoFlags s.cfg.secinfo (s.readSecinfo le.pa) →
    f.pt = s.cfg.pt.reg ∧ f.pr = true ∧ f.pending = false ∧ f.modified = false ∧
      l.entry.pt = s.cfg.pt.reg ∧ l.entry.r = true

/-- R150 (derived in the spec): all tests on the SECINFO operand come first: when one of them fails,
the value of RCX plays no part in the exception or in its address. That the page operand's form test
stands after them too is D6 (log 16). -/
def Obligations.SecinfoTestsComeFirst : Prop :=
  ∀ (s : State) (v : Word), s.Admitted → s.inEnclave = true → (¬ ∃ le f, s.SecinfoPasses le f) →
    (exec .encluEaccept s = .fault (.gp 0 s) ∧
      exec .encluEaccept (s.setReg .rcx v) = .fault (.gp 0 (s.setReg .rcx v))) ∨
    (∃ c c', exec .encluEaccept s = .fault (.pf c (s.linearAddress .secinfo) s) ∧
      exec .encluEaccept (s.setReg .rcx v) =
        .fault (.pf c' (s.linearAddress .secinfo) (s.setReg .rcx v)))

/-- R75 and R76 (D8; log 33): an execution that completes had both operands inside CR_ELRANGE, in
EPC pages that are valid, not blocked and of the running enclave, the SECINFO in a readable PT_REG
page; and no entry of another enclave's page ever changes. -/
def Obligations.OnlyPagesOfTheRunningEnclave : Prop :=
  ∀ s t : State, exec .encluEaccept s = .next t →
    s.inEnclave = true ∧
    (∀ o, ∃ l, s.locate (s.linearAddress o) = some l ∧ l.entry.valid = true ∧
      l.entry.blocked = false ∧ l.entry.enclaveSecs = s.activeSecs ∧
      s.elrange.base.toNat ≤ (s.linearAddress o).toNat ∧
      (s.linearAddress o).toNat + o.size ≤ s.elrange.base.toNat + s.elrange.size.toNat ∧
      (o = .secinfo → l.entry.r = true ∧ l.entry.pt = s.cfg.pt.reg)) ∧
    (∀ p e, lookup p s.epcm = some e → e.enclaveSecs ≠ s.activeSecs → lookup p t.epcm = some e)

/-- R77 (D16; log 24): after an execution that ends with ZF = 0, the entry RCX leads to, looked up
in the new state, has PENDING = MODIFIED = PR = 0. -/
def Obligations.MarksClearAfterSuccess : Prop :=
  ∀ s t : State, exec .encluEaccept s = .next t → t.flag .zf = false →
    ∃ l, t.locate (t.linearAddress .page) = some l ∧ l.entry.pending = false ∧
      l.entry.modified = false ∧ l.entry.pr = false

/-- R36 and R73 (D5, D16; log 24): the instruction reaches memory through its two operands only.
With other bytes anywhere outside the 64 of the SECINFO and, for a PT_TCS request, the 4096 of the
page, the execution refuses, faults or completes alike, and the completed state differs in memory
alone. -/
def Obligations.ReadsOnlyItsOperandsMemory : Prop :=
  ∀ (s : State) (m : Memory), s.cfg.tcs.wf →
    (∀ le, s.OperandAt .secinfo le → ∀ i < 64,
      Memory.read m (le.pa.toNat + i) = Memory.read s.mem (le.pa.toNat + i)) →
    (∀ f l, s.Ready f l → f.pt = s.cfg.pt.tcs → ∀ i < 4096,
      Memory.read m (l.pa.toNat + i) = Memory.read s.mem (l.pa.toNat + i)) →
    EndsAlike (fun t => { t with mem := m }) s { s with mem := m }

/-- R28, R61 and R180 (D6, G14; log 18): in 64-bit mode DS plays no part. With another base and
limit, and with a null or unreadable DS too (the model's choice, log 34), the execution ends alike,
and the completed state differs in DS alone. -/
def Obligations.DsIgnoredIn64BitMode : Prop :=
  ∀ (s : State) (d : Segment) (u : Bool), s.mode64 = true →
    EndsAlike (fun t => { t with ds := d, common := { t.common with dsUsable := u } })
      s { s with ds := d, common := { s.common with dsUsable := u } }
end

