-- ==== Sys2Proof/Laws/Flags.lean ====
section
/-! SUPPORT. Reading RFLAGS after a status flag was written. -/

namespace Sys2Proof.Machine

/-- A written flag reads back; every other bit of RFLAGS keeps its value (R27). -/
@[simp] theorem getLsbD_writeFlag (r : Word) (f : StatusFlag) (b : Bool) (i : Nat) :
    (writeFlag r f b).getLsbD i = if i = f.bit then b else r.getLsbD i := by
  have hf : f.bit < 64 := by cases f <;> decide
  unfold writeFlag
  by_cases hi : i = f.bit
  · subst hi
    cases b <;> simp [hf]
  · cases b <;> simp [BitVec.getLsbD_twoPow, hi, Ne.symm hi]
    intro h
    exact BitVec.lt_of_getLsbD h

theorem StatusFlag.bit_inj {f g : StatusFlag} : f.bit = g.bit ↔ f = g := by
  cases f <;> cases g <;> decide

@[simp] theorem readFlag_writeFlag (r : Word) (f g : StatusFlag) (b : Bool) :
    readFlag (writeFlag r f b) g = if g = f then b else readFlag r g := by
  simp [readFlag, StatusFlag.bit_inj]

/-- Every bit of RFLAGS after DONE (R141). -/
theorem getLsbD_clearDoneFlags (r : Word) (i : Nat) :
    (clearDoneFlags r).getLsbD i =
      (if i = 0 ∨ i = 2 ∨ i = 4 ∨ i = 11 ∨ i = 7 then false else r.getLsbD i) := by
  simp only [clearDoneFlags, List.foldl_cons, List.foldl_nil, getLsbD_writeFlag, StatusFlag.bit]
  grind

/-- DONE clears five flags and leaves ZF (R141). -/
theorem readFlag_clearDoneFlags (r : Word) (f : StatusFlag) :
    readFlag (clearDoneFlags r) f = if f = .zf then readFlag r .zf else false := by
  cases f <;> simp only [readFlag, StatusFlag.bit, getLsbD_clearDoneFlags] <;> simp

end Sys2Proof.Machine
end

