-- ==== Sys2Proof/Laws/Memory.lean ====
section
/-! SUPPORT. The laws of tables and of memory: read after write, and that every operation keeps the
canonical form. -/

namespace Sys2Proof.Machine

/-! ### Tables -/

section Tables
variable {α : Type}

@[simp] theorem keys_updateAt (k : Nat) (f : α → α) (l : List (Nat × α)) :
    keys (updateAt k f l) = keys l := by
  simp only [keys, updateAt, List.map_map]
  congr 1
  funext c
  by_cases h : c.1 = k <;> simp [h]

/-- An update changes the value under its key and no other. -/
theorem lookup_updateAt (k : Nat) (f : α → α) (l : List (Nat × α)) (j : Nat) :
    lookup j (updateAt k f l) = if j = k then (lookup j l).map f else lookup j l := by
  induction l with
  | nil => simp [updateAt, lookup]
  | cons c t ih =>
    simp only [updateAt, List.map_cons, lookup] at ih ⊢
    grind

theorem updateAt_updateAt (k : Nat) (f g : α → α) (l : List (Nat × α)) :
    updateAt k g (updateAt k f l) = updateAt k (g ∘ f) l := by
  simp only [updateAt, List.map_map]
  congr 1
  funext c
  by_cases h : c.1 = k <;> simp [h]

theorem lookup_eq_none_of_forall_ne {k : Nat} {l : List (Nat × α)} (h : ∀ c ∈ l, c.1 ≠ k) :
    lookup k l = none := by
  induction l with
  | nil => rfl
  | cons c t ih => grind [lookup]

theorem lookup_mem {k : Nat} {l : List (Nat × α)} {v : α} (h : lookup k l = some v) :
    (k, v) ∈ l := by
  induction l with
  | nil => simp [lookup] at h
  | cons c t ih => grind [lookup]

end Tables

/-! ### Memory -/

theorem keys_lt_of_mem {m : Memory} {c d : Host.Cell} (h : (keys (c :: m)).Pairwise (· < ·))
    (hd : d ∈ m) : c.1 < d.1 :=
  (List.pairwise_cons.1 h).1 d.1 (List.mem_map_of_mem hd)

theorem mem_insert {m : Memory} {a : Nat} {b : Byte} {c : Host.Cell}
    (h : c ∈ Memory.insert a b m) : c = (a, b) ∨ c ∈ m := by
  induction m with
  | nil => simpa [Memory.insert] using h
  | cons d t ih => grind [Memory.insert]

theorem keys_insert_pairwise {m : Memory} (a : Nat) (b : Byte)
    (h : (keys m).Pairwise (· < ·)) : (keys (Memory.insert a b m)).Pairwise (· < ·) := by
  induction m with
  | nil => simp [Memory.insert, keys]
  | cons d t ih =>
    have ht : (keys t).Pairwise (· < ·) := (List.pairwise_cons.1 h).2
    have hlt : ∀ e ∈ t, d.1 < e.1 := fun e he => keys_lt_of_mem h he
    unfold Memory.insert
    split
    · rename_i hlt'
      refine List.pairwise_cons.2 ⟨?_, h⟩
      intro k hk
      simp only [List.map_cons, List.mem_cons, List.mem_map] at hk
      rcases hk with rfl | ⟨e, he, rfl⟩
      · exact hlt'
      · exact Nat.lt_trans hlt' (hlt e he)
    · split
      · rename_i heq
        subst heq
        exact h
      · refine List.pairwise_cons.2 ⟨?_, ih ht⟩
        intro k hk
        obtain ⟨e, he, rfl⟩ := List.mem_map.1 hk
        rcases mem_insert he with rfl | he
        · simp only
          omega
        · exact hlt e he

/-- A write keeps the canonical form. -/
theorem Memory.write_wf {m : Memory} (h : Memory.wf m) {a : Nat} (ha : a < 2 ^ 64) (b : Byte) :
    Memory.wf (Memory.write m a b) := by
  unfold Memory.write
  split
  · refine ⟨h.1.sublist (List.Sublist.map _ List.filter_sublist), ?_⟩
    intro c hc
    exact h.2 c (List.mem_of_mem_filter hc)
  · rename_i hb
    refine ⟨keys_insert_pairwise a b h.1, ?_⟩
    intro c hc
    rcases mem_insert hc with rfl | hc
    · exact ⟨ha, hb⟩
    · exact h.2 c hc

theorem lookup_insert {m : Memory} (h : (keys m).Pairwise (· < ·)) (a : Nat) (b : Byte) (j : Nat) :
    lookup j (Memory.insert a b m) = if j = a then some b else lookup j m := by
  induction m with
  | nil => simp [Memory.insert, lookup, eq_comm]
  | cons d t ih =>
    have ht : (keys t).Pairwise (· < ·) := (List.pairwise_cons.1 h).2
    have hlt : ∀ e ∈ t, d.1 < e.1 := fun e he => keys_lt_of_mem h he
    unfold Memory.insert
    grind [lookup]

theorem lookup_filter_ne (m : Memory) (a j : Nat) :
    lookup j (m.filter (fun c => c.1 ≠ a)) = if j = a then none else lookup j m := by
  induction m with
  | nil => simp [lookup]
  | cons d t ih => grind [lookup]

/-- A read after a write to the same address gives the byte written, and any other address reads as
before. -/
@[simp] theorem Memory.read_write {m : Memory} (h : Memory.wf m) (a : Nat) (b : Byte) (j : Nat) :
    Memory.read (Memory.write m a b) j = if j = a then b else Memory.read m j := by
  unfold Memory.write Memory.read
  split
  · rename_i hb
    rw [lookup_filter_ne]
    split <;> simp_all
  · rw [lookup_insert h.1]
    split <;> simp

/-! ### Little-endian reads -/

theorem Memory.readLE_lt (m : Memory) (a n : Nat) : Memory.readLE m a n < 256 ^ n := by
  induction n generalizing a with
  | zero => simp [Memory.readLE]
  | succ n ih =>
    have h1 := ih (a + 1)
    have h2 := (Memory.read m a).isLt
    simp only [Memory.readLE, Nat.pow_succ]
    omega

/-- Bit `i` of a little-endian read is bit `i % 8` of byte `i / 8` (R71). -/
theorem Memory.testBit_readLE (m : Memory) (a n i : Nat) (h : i < 8 * n) :
    (Memory.readLE m a n).testBit i = (Memory.read m (a + i / 8)).getLsbD (i % 8) := by
  induction n generalizing a i with
  | zero => omega
  | succ n ih =>
    have hb := (Memory.read m a).isLt
    have e : Memory.readLE m a (n + 1) =
        2 ^ 8 * Memory.readLE m (a + 1) n + (Memory.read m a).toNat := by
      simp only [Memory.readLE]; omega
    rw [e, Nat.testBit_two_pow_mul_add _ (by simpa using hb)]
    by_cases h8 : i < 8
    · have h0 : i / 8 = 0 := by omega
      have h1 : i % 8 = i := by omega
      simp [h8, h0, h1, BitVec.getLsbD]
    · have h1 : a + 1 + (i - 8) / 8 = a + i / 8 := by omega
      have h2 : (i - 8) % 8 = i % 8 := by omega
      simp only [h8, if_false]
      rw [ih (a + 1) (i - 8) (by omega), h1, h2]

theorem Memory.read_eq_of_unlisted {m : Memory} {a : Nat} (h : ∀ c ∈ m, c.1 ≠ a) :
    Memory.read m a = unlistedByte := by
  rw [Memory.read, lookup_eq_none_of_forall_ne h, Option.getD_none]

theorem Memory.allZero_iff (m : Memory) (a n : Nat) :
    Memory.allZero m a n = true ↔ ∀ i < n, Memory.read m (a + i) = 0 := by
  have h0 : (unlistedByte == 0) = true := rfl
  simp only [Memory.allZero, h0, Bool.true_and, List.all_eq_true, Bool.or_eq_true, beq_iff_eq,
    Bool.not_eq_true', decide_eq_false_iff_not]
  constructor
  · intro h i hi
    by_cases hm : ∃ c ∈ m, c.1 = a + i
    · obtain ⟨c, hc, e⟩ := hm
      rcases h c hc with h | h
      · omega
      · rw [← e]; exact h
    · exact Memory.read_eq_of_unlisted fun c hc e => hm ⟨c, hc, e⟩
  · intro h c _
    by_cases hr : a ≤ c.1 ∧ c.1 < a + n
    · have := h (c.1 - a) (by omega)
      rw [show a + (c.1 - a) = c.1 by omega] at this
      exact .inr this
    · exact .inl hr

/-- A little-endian read depends on its bytes alone. -/
theorem Memory.readLE_congr {m m' : Memory} {a n : Nat}
    (h : ∀ i < n, Memory.read m' (a + i) = Memory.read m (a + i)) :
    Memory.readLE m' a n = Memory.readLE m a n := by
  induction n generalizing a with
  | zero => rfl
  | succ n ih =>
    have h0 := h 0 (by omega)
    simp only [Nat.add_zero] at h0
    simp only [Memory.readLE, h0]
    rw [ih (a := a + 1)]
    intro i hi
    have := h (i + 1) (by omega)
    rwa [show a + 1 + i = a + (i + 1) by omega]

end Sys2Proof.Machine
end

