-- ==== Sys2Proof/Laws/State.lean ====
section
/-! SUPPORT. What each state update writes and leaves, one lemma per field per update, by rfl. -/

namespace Sys2Proof.Machine

variable (s : State)

/-! ### setReg -/

@[simp] theorem State.setReg_cfg (g : Gpr) (v : Word) :
    (s.setReg g v).cfg = s.cfg := rfl
@[simp] theorem State.setReg_regs (g : Gpr) (v : Word) :
    (s.setReg g v).regs = s.regs.set g v := rfl
@[simp] theorem State.setReg_pc (g : Gpr) (v : Word) :
    (s.setReg g v).pc = s.pc := rfl
@[simp] theorem State.setReg_rflags (g : Gpr) (v : Word) :
    (s.setReg g v).rflags = s.rflags := rfl
@[simp] theorem State.setReg_ds (g : Gpr) (v : Word) :
    (s.setReg g v).ds = s.ds := rfl
@[simp] theorem State.setReg_mode64 (g : Gpr) (v : Word) :
    (s.setReg g v).mode64 = s.mode64 := rfl
@[simp] theorem State.setReg_inEnclave (g : Gpr) (v : Word) :
    (s.setReg g v).inEnclave = s.inEnclave := rfl
@[simp] theorem State.setReg_elrange (g : Gpr) (v : Word) :
    (s.setReg g v).elrange = s.elrange := rfl
@[simp] theorem State.setReg_activeSecs (g : Gpr) (v : Word) :
    (s.setReg g v).activeSecs = s.activeSecs := rfl
@[simp] theorem State.setReg_common (g : Gpr) (v : Word) :
    (s.setReg g v).common = s.common := rfl
@[simp] theorem State.setReg_text (g : Gpr) (v : Word) :
    (s.setReg g v).text = s.text := rfl
@[simp] theorem State.setReg_mem (g : Gpr) (v : Word) :
    (s.setReg g v).mem = s.mem := rfl
@[simp] theorem State.setReg_translation (g : Gpr) (v : Word) :
    (s.setReg g v).translation = s.translation := rfl
@[simp] theorem State.setReg_epcm (g : Gpr) (v : Word) :
    (s.setReg g v).epcm = s.epcm := rfl
@[simp] theorem State.setReg_inUse (g : Gpr) (v : Word) :
    (s.setReg g v).inUse = s.inUse := rfl
@[simp] theorem State.setReg_tracked (g : Gpr) (v : Word) :
    (s.setReg g v).tracked = s.tracked := rfl
@[simp] theorem State.setReg_secsMode64 (g : Gpr) (v : Word) :
    (s.setReg g v).secsMode64 = s.secsMode64 := rfl

/-! ### setFlag -/

@[simp] theorem State.setFlag_cfg (f : StatusFlag) (b : Bool) :
    (s.setFlag f b).cfg = s.cfg := rfl
@[simp] theorem State.setFlag_regs (f : StatusFlag) (b : Bool) :
    (s.setFlag f b).regs = s.regs := rfl
@[simp] theorem State.setFlag_pc (f : StatusFlag) (b : Bool) :
    (s.setFlag f b).pc = s.pc := rfl
@[simp] theorem State.setFlag_rflags (f : StatusFlag) (b : Bool) :
    (s.setFlag f b).rflags = writeFlag s.rflags f b := rfl
@[simp] theorem State.setFlag_ds (f : StatusFlag) (b : Bool) :
    (s.setFlag f b).ds = s.ds := rfl
@[simp] theorem State.setFlag_mode64 (f : StatusFlag) (b : Bool) :
    (s.setFlag f b).mode64 = s.mode64 := rfl
@[simp] theorem State.setFlag_inEnclave (f : StatusFlag) (b : Bool) :
    (s.setFlag f b).inEnclave = s.inEnclave := rfl
@[simp] theorem State.setFlag_elrange (f : StatusFlag) (b : Bool) :
    (s.setFlag f b).elrange = s.elrange := rfl
@[simp] theorem State.setFlag_activeSecs (f : StatusFlag) (b : Bool) :
    (s.setFlag f b).activeSecs = s.activeSecs := rfl
@[simp] theorem State.setFlag_common (f : StatusFlag) (b : Bool) :
    (s.setFlag f b).common = s.common := rfl
@[simp] theorem State.setFlag_text (f : StatusFlag) (b : Bool) :
    (s.setFlag f b).text = s.text := rfl
@[simp] theorem State.setFlag_mem (f : StatusFlag) (b : Bool) :
    (s.setFlag f b).mem = s.mem := rfl
@[simp] theorem State.setFlag_translation (f : StatusFlag) (b : Bool) :
    (s.setFlag f b).translation = s.translation := rfl
@[simp] theorem State.setFlag_epcm (f : StatusFlag) (b : Bool) :
    (s.setFlag f b).epcm = s.epcm := rfl
@[simp] theorem State.setFlag_inUse (f : StatusFlag) (b : Bool) :
    (s.setFlag f b).inUse = s.inUse := rfl
@[simp] theorem State.setFlag_tracked (f : StatusFlag) (b : Bool) :
    (s.setFlag f b).tracked = s.tracked := rfl
@[simp] theorem State.setFlag_secsMode64 (f : StatusFlag) (b : Bool) :
    (s.setFlag f b).secsMode64 = s.secsMode64 := rfl

/-! ### updateEpcm -/

@[simp] theorem State.updateEpcm_cfg (p : Nat) (f : EpcmEntry → EpcmEntry) :
    (s.updateEpcm p f).cfg = s.cfg := rfl
@[simp] theorem State.updateEpcm_regs (p : Nat) (f : EpcmEntry → EpcmEntry) :
    (s.updateEpcm p f).regs = s.regs := rfl
@[simp] theorem State.updateEpcm_pc (p : Nat) (f : EpcmEntry → EpcmEntry) :
    (s.updateEpcm p f).pc = s.pc := rfl
@[simp] theorem State.updateEpcm_rflags (p : Nat) (f : EpcmEntry → EpcmEntry) :
    (s.updateEpcm p f).rflags = s.rflags := rfl
@[simp] theorem State.updateEpcm_ds (p : Nat) (f : EpcmEntry → EpcmEntry) :
    (s.updateEpcm p f).ds = s.ds := rfl
@[simp] theorem State.updateEpcm_mode64 (p : Nat) (f : EpcmEntry → EpcmEntry) :
    (s.updateEpcm p f).mode64 = s.mode64 := rfl
@[simp] theorem State.updateEpcm_inEnclave (p : Nat) (f : EpcmEntry → EpcmEntry) :
    (s.updateEpcm p f).inEnclave = s.inEnclave := rfl
@[simp] theorem State.updateEpcm_elrange (p : Nat) (f : EpcmEntry → EpcmEntry) :
    (s.updateEpcm p f).elrange = s.elrange := rfl
@[simp] theorem State.updateEpcm_activeSecs (p : Nat) (f : EpcmEntry → EpcmEntry) :
    (s.updateEpcm p f).activeSecs = s.activeSecs := rfl
@[simp] theorem State.updateEpcm_common (p : Nat) (f : EpcmEntry → EpcmEntry) :
    (s.updateEpcm p f).common = s.common := rfl
@[simp] theorem State.updateEpcm_text (p : Nat) (f : EpcmEntry → EpcmEntry) :
    (s.updateEpcm p f).text = s.text := rfl
@[simp] theorem State.updateEpcm_mem (p : Nat) (f : EpcmEntry → EpcmEntry) :
    (s.updateEpcm p f).mem = s.mem := rfl
@[simp] theorem State.updateEpcm_translation (p : Nat) (f : EpcmEntry → EpcmEntry) :
    (s.updateEpcm p f).translation = s.translation := rfl
@[simp] theorem State.updateEpcm_epcm (p : Nat) (f : EpcmEntry → EpcmEntry) :
    (s.updateEpcm p f).epcm = updateAt p f s.epcm := rfl
@[simp] theorem State.updateEpcm_inUse (p : Nat) (f : EpcmEntry → EpcmEntry) :
    (s.updateEpcm p f).inUse = s.inUse := rfl
@[simp] theorem State.updateEpcm_tracked (p : Nat) (f : EpcmEntry → EpcmEntry) :
    (s.updateEpcm p f).tracked = s.tracked := rfl
@[simp] theorem State.updateEpcm_secsMode64 (p : Nat) (f : EpcmEntry → EpcmEntry) :
    (s.updateEpcm p f).secsMode64 = s.secsMode64 := rfl

/-! ### advancePc -/

@[simp] theorem State.advancePc_cfg :
    (s.advancePc).cfg = s.cfg := rfl
@[simp] theorem State.advancePc_regs :
    (s.advancePc).regs = s.regs := rfl
@[simp] theorem State.advancePc_pc :
    (s.advancePc).pc = s.pcPlus s.cfg.encluLength := rfl
@[simp] theorem State.advancePc_rflags :
    (s.advancePc).rflags = s.rflags := rfl
@[simp] theorem State.advancePc_ds :
    (s.advancePc).ds = s.ds := rfl
@[simp] theorem State.advancePc_mode64 :
    (s.advancePc).mode64 = s.mode64 := rfl
@[simp] theorem State.advancePc_inEnclave :
    (s.advancePc).inEnclave = s.inEnclave := rfl
@[simp] theorem State.advancePc_elrange :
    (s.advancePc).elrange = s.elrange := rfl
@[simp] theorem State.advancePc_activeSecs :
    (s.advancePc).activeSecs = s.activeSecs := rfl
@[simp] theorem State.advancePc_common :
    (s.advancePc).common = s.common := rfl
@[simp] theorem State.advancePc_text :
    (s.advancePc).text = s.text := rfl
@[simp] theorem State.advancePc_mem :
    (s.advancePc).mem = s.mem := rfl
@[simp] theorem State.advancePc_translation :
    (s.advancePc).translation = s.translation := rfl
@[simp] theorem State.advancePc_epcm :
    (s.advancePc).epcm = s.epcm := rfl
@[simp] theorem State.advancePc_inUse :
    (s.advancePc).inUse = s.inUse := rfl
@[simp] theorem State.advancePc_tracked :
    (s.advancePc).tracked = s.tracked := rfl
@[simp] theorem State.advancePc_secsMode64 :
    (s.advancePc).secsMode64 = s.secsMode64 := rfl

/-! ### done -/

@[simp] theorem State.done_cfg :
    (s.done).cfg = s.cfg := rfl
@[simp] theorem State.done_regs :
    (s.done).regs = s.regs := rfl
@[simp] theorem State.done_pc :
    (s.done).pc = s.pcPlus s.cfg.encluLength := rfl
@[simp] theorem State.done_rflags :
    (s.done).rflags = clearDoneFlags s.rflags := rfl
@[simp] theorem State.done_ds :
    (s.done).ds = s.ds := rfl
@[simp] theorem State.done_mode64 :
    (s.done).mode64 = s.mode64 := rfl
@[simp] theorem State.done_inEnclave :
    (s.done).inEnclave = s.inEnclave := rfl
@[simp] theorem State.done_elrange :
    (s.done).elrange = s.elrange := rfl
@[simp] theorem State.done_activeSecs :
    (s.done).activeSecs = s.activeSecs := rfl
@[simp] theorem State.done_common :
    (s.done).common = s.common := rfl
@[simp] theorem State.done_text :
    (s.done).text = s.text := rfl
@[simp] theorem State.done_mem :
    (s.done).mem = s.mem := rfl
@[simp] theorem State.done_translation :
    (s.done).translation = s.translation := rfl
@[simp] theorem State.done_epcm :
    (s.done).epcm = s.epcm := rfl
@[simp] theorem State.done_inUse :
    (s.done).inUse = s.inUse := rfl
@[simp] theorem State.done_tracked :
    (s.done).tracked = s.tracked := rfl
@[simp] theorem State.done_secsMode64 :
    (s.done).secsMode64 = s.secsMode64 := rfl

/-! ### completeError -/

@[simp] theorem State.completeError_cfg (c : Word) :
    (s.completeError c).cfg = s.cfg := rfl
@[simp] theorem State.completeError_regs (c : Word) :
    (s.completeError c).regs = s.regs.set .rax c := rfl
@[simp] theorem State.completeError_pc (c : Word) :
    (s.completeError c).pc = s.pcPlus s.cfg.encluLength := rfl
@[simp] theorem State.completeError_rflags (c : Word) :
    (s.completeError c).rflags = clearDoneFlags (writeFlag s.rflags .zf true) := rfl
@[simp] theorem State.completeError_ds (c : Word) :
    (s.completeError c).ds = s.ds := rfl
@[simp] theorem State.completeError_mode64 (c : Word) :
    (s.completeError c).mode64 = s.mode64 := rfl
@[simp] theorem State.completeError_inEnclave (c : Word) :
    (s.completeError c).inEnclave = s.inEnclave := rfl
@[simp] theorem State.completeError_elrange (c : Word) :
    (s.completeError c).elrange = s.elrange := rfl
@[simp] theorem State.completeError_activeSecs (c : Word) :
    (s.completeError c).activeSecs = s.activeSecs := rfl
@[simp] theorem State.completeError_common (c : Word) :
    (s.completeError c).common = s.common := rfl
@[simp] theorem State.completeError_text (c : Word) :
    (s.completeError c).text = s.text := rfl
@[simp] theorem State.completeError_mem (c : Word) :
    (s.completeError c).mem = s.mem := rfl
@[simp] theorem State.completeError_translation (c : Word) :
    (s.completeError c).translation = s.translation := rfl
@[simp] theorem State.completeError_epcm (c : Word) :
    (s.completeError c).epcm = s.epcm := rfl
@[simp] theorem State.completeError_inUse (c : Word) :
    (s.completeError c).inUse = s.inUse := rfl
@[simp] theorem State.completeError_tracked (c : Word) :
    (s.completeError c).tracked = s.tracked := rfl
@[simp] theorem State.completeError_secsMode64 (c : Word) :
    (s.completeError c).secsMode64 = s.secsMode64 := rfl

/-! ### completeAccept -/

@[simp] theorem State.completeAccept_cfg (p : Nat) :
    (s.completeAccept p).cfg = s.cfg := rfl
@[simp] theorem State.completeAccept_regs (p : Nat) :
    (s.completeAccept p).regs = s.regs.set .rax 0 := rfl
@[simp] theorem State.completeAccept_pc (p : Nat) :
    (s.completeAccept p).pc = s.pcPlus s.cfg.encluLength := rfl
@[simp] theorem State.completeAccept_rflags (p : Nat) :
    (s.completeAccept p).rflags = clearDoneFlags (writeFlag s.rflags .zf false) := rfl
@[simp] theorem State.completeAccept_ds (p : Nat) :
    (s.completeAccept p).ds = s.ds := rfl
@[simp] theorem State.completeAccept_mode64 (p : Nat) :
    (s.completeAccept p).mode64 = s.mode64 := rfl
@[simp] theorem State.completeAccept_inEnclave (p : Nat) :
    (s.completeAccept p).inEnclave = s.inEnclave := rfl
@[simp] theorem State.completeAccept_elrange (p : Nat) :
    (s.completeAccept p).elrange = s.elrange := rfl
@[simp] theorem State.completeAccept_activeSecs (p : Nat) :
    (s.completeAccept p).activeSecs = s.activeSecs := rfl
@[simp] theorem State.completeAccept_common (p : Nat) :
    (s.completeAccept p).common = s.common := rfl
@[simp] theorem State.completeAccept_text (p : Nat) :
    (s.completeAccept p).text = s.text := rfl
@[simp] theorem State.completeAccept_mem (p : Nat) :
    (s.completeAccept p).mem = s.mem := rfl
@[simp] theorem State.completeAccept_translation (p : Nat) :
    (s.completeAccept p).translation = s.translation := rfl
@[simp] theorem State.completeAccept_epcm (p : Nat) :
    (s.completeAccept p).epcm = updateAt p EpcmEntry.accepted s.epcm := rfl
@[simp] theorem State.completeAccept_inUse (p : Nat) :
    (s.completeAccept p).inUse = s.inUse := rfl
@[simp] theorem State.completeAccept_tracked (p : Nat) :
    (s.completeAccept p).tracked = s.tracked := rfl
@[simp] theorem State.completeAccept_secsMode64 (p : Nat) :
    (s.completeAccept p).secsMode64 = s.secsMode64 := rfl

/-! ### withFetchWord -/

@[simp] theorem State.withFetchWord_cfg (n w : Nat) :
    (s.withFetchWord n w).cfg = s.cfg := rfl
@[simp] theorem State.withFetchWord_regs (n w : Nat) :
    (s.withFetchWord n w).regs = s.regs := rfl
@[simp] theorem State.withFetchWord_pc (n w : Nat) :
    (s.withFetchWord n w).pc = s.pc := rfl
@[simp] theorem State.withFetchWord_rflags (n w : Nat) :
    (s.withFetchWord n w).rflags = s.rflags := rfl
@[simp] theorem State.withFetchWord_ds (n w : Nat) :
    (s.withFetchWord n w).ds = s.ds := rfl
@[simp] theorem State.withFetchWord_mode64 (n w : Nat) :
    (s.withFetchWord n w).mode64 = s.mode64 := rfl
@[simp] theorem State.withFetchWord_inEnclave (n w : Nat) :
    (s.withFetchWord n w).inEnclave = s.inEnclave := rfl
@[simp] theorem State.withFetchWord_elrange (n w : Nat) :
    (s.withFetchWord n w).elrange = s.elrange := rfl
@[simp] theorem State.withFetchWord_activeSecs (n w : Nat) :
    (s.withFetchWord n w).activeSecs = s.activeSecs := rfl
@[simp] theorem State.withFetchWord_common (n w : Nat) :
    (s.withFetchWord n w).common = s.common := rfl
@[simp] theorem State.withFetchWord_text (n w : Nat) :
    (s.withFetchWord n w).text = s.placeText 0 s.text (tableBytes n w) := rfl
@[simp] theorem State.withFetchWord_mem (n w : Nat) :
    (s.withFetchWord n w).mem = s.mem := rfl
@[simp] theorem State.withFetchWord_translation (n w : Nat) :
    (s.withFetchWord n w).translation = s.translation := rfl
@[simp] theorem State.withFetchWord_epcm (n w : Nat) :
    (s.withFetchWord n w).epcm = s.epcm := rfl
@[simp] theorem State.withFetchWord_inUse (n w : Nat) :
    (s.withFetchWord n w).inUse = s.inUse := rfl
@[simp] theorem State.withFetchWord_tracked (n w : Nat) :
    (s.withFetchWord n w).tracked = s.tracked := rfl
@[simp] theorem State.withFetchWord_secsMode64 (n w : Nat) :
    (s.withFetchWord n w).secsMode64 = s.secsMode64 := rfl

/-! ### Reading a register or a flag after an update -/

@[simp] theorem Regs.get_set (r : Regs) (g h : Gpr) (v : Word) :
    (r.set g v).get h = if h = g then v else r.get h := by
  cases g <;> cases h <;> rfl

@[simp] theorem Regs.set_set (r : Regs) (g : Gpr) (v w : Word) :
    (r.set g v).set g w = r.set g w := by
  cases g <;> rfl

@[simp] theorem State.reg_setReg (g h : Gpr) (v : Word) :
    (s.setReg g v).reg h = if h = g then v else s.reg h :=
  Regs.get_set s.regs g h v

theorem State.reg_completeError (c : Word) (h : Gpr) :
    (s.completeError c).reg h = if h = .rax then c else s.reg h :=
  Regs.get_set s.regs .rax h c

theorem State.reg_completeAccept (p : Nat) (h : Gpr) :
    (s.completeAccept p).reg h = if h = .rax then 0 else s.reg h :=
  Regs.get_set s.regs .rax h 0

end Sys2Proof.Machine
end

