-- ==== Sys2Proof/Laws/Eaccept.lean ====
section
/-! SUPPORT. One lemma per operation of EACCEPT that says once all it can do, from the address tests up
to the instruction: the provers cite these and unfold nothing. -/

namespace Sys2Proof.Machine

variable {s t : State} {f : SecinfoFlags} {l : Located}

/-- The one arm of exec. -/
@[simp] theorem exec_encluEaccept (s : State) : exec .encluEaccept s = execEncluEaccept s := rfl

/-! ### Launch premises -/

theorem CommonConditions.failing_eq_none (c : CommonConditions) (mode64 : Bool) :
    c.failing mode64 = none ↔
      { c with dsUsable := true } = CommonConditions.met ∧ (mode64 = false → c.dsUsable = true) := by
  obtain ⟨a, b, v, m, g, p, ts, d⟩ := c
  unfold CommonConditions.failing CommonConditions.met
  by_cases hp : p = 3
  · subst hp
    cases a <;> cases b <;> cases v <;> cases m <;> cases g <;> cases ts <;> cases d <;>
      cases mode64 <;> simp
  · have hp' : ¬ p = 3#2 := hp
    cases a <;> cases b <;> cases v <;> cases m <;> cases g <;> simp [hp']

/-- In 64-bit mode the DS condition plays no part. -/
@[simp] theorem CommonConditions.failing_dsUsable (c : CommonConditions) (u : Bool) :
    ({ c with dsUsable := u } : CommonConditions).failing true = c.failing true := rfl

theorem State.failing_eq_none (s : State) : s.common.failing s.mode64 = none ↔ s.CommonMet :=
  (CommonConditions.failing_eq_none _ _).trans ⟨fun h => ⟨h.1, h.2⟩, fun h => ⟨h.1, h.2⟩⟩

/-- The leaf is reached exactly under the launch premises P2, P3 and P4. -/
theorem State.leafRefusal_eq_none (s : State) : s.leafRefusal = none ↔ s.Admitted := by
  unfold State.leafRefusal
  constructor
  · intro h
    cases hc : s.common.failing s.mode64 with
    | some c => simp [hc] at h
    | none =>
      simp only [hc] at h
      refine ⟨?_, (State.failing_eq_none _).1 hc, ?_⟩ <;> grind
  · intro h
    simp [(State.failing_eq_none _).2 h.common, h.sgx2, h.eax]

/-! ### The address tests -/

theorem State.aligned_iff (o : Operand) :
    s.aligned o = true ↔ (s.linearAddress o).toNat % o.size = 0 := by
  simp [State.aligned]

theorem State.inRange_iff (o : Operand) :
    s.inRange o = true ↔ s.elrange.base.toNat ≤ (s.linearAddress o).toNat ∧
      (s.linearAddress o).toNat + o.size ≤ s.elrange.base.toNat + s.elrange.size.toNat := by
  simp [State.inRange, withinElrange]

/-- The four address tests pass exactly when the operand is well placed. -/
theorem State.locateOperand_ok (o : Operand) :
    s.locateOperand o = .ok l ↔ s.OperandAt o l := by
  unfold State.locateOperand
  constructor
  · intro h
    split at h
    · cases h
    split at h
    · cases h
    split at h
    · cases h
    rename_i h1 h2 h3
    simp only [Bool.not_eq_true, Bool.not_eq_false'] at h1 h2 h3
    have h3' := (State.inRange_iff o).1 (by simpa using h3)
    split at h
    · cases h
    · rename_i heq
      cases h
      exact ⟨by simpa using h1, (State.aligned_iff o).1 (by simpa using h2), h3'.1, h3'.2, heq⟩
  · intro h
    simp [h.form, (State.aligned_iff o).2 h.aligned, (State.inRange_iff o).2 ⟨h.low, h.high⟩,
      h.resolves]

/-- When an address test fails, it raises #GP(0), or #PF at the operand's address. -/
theorem State.locateOperand_error (o : Operand) {e : Fault} (h : s.locateOperand o = .error e) :
    e = s.raiseGP ∨ e = s.raisePF o.resolveSite (s.linearAddress o) := by
  unfold State.locateOperand at h
  split at h
  · exact .inl (by cases h; rfl)
  split at h
  · exact .inl (by cases h; rfl)
  split at h
  · exact .inl (by cases h; rfl)
  split at h
  · exact .inr (by cases h; rfl)
  · cases h

/-- An operand that fails one of the first three tests raises #GP(0). -/
theorem State.locateOperand_gp (o : Operand)
    (h : s.addressForm o = false ∨ (s.linearAddress o).toNat % o.size ≠ 0 ∨ s.inRange o = false) :
    s.locateOperand o = .error s.raiseGP := by
  have ha := State.aligned_iff (s := s) o
  unfold State.locateOperand
  grind

/-- An operand that passes the first three tests and resolves in no EPC page raises #PF. -/
theorem State.locateOperand_pf (o : Operand) (h1 : s.addressForm o = true)
    (h2 : (s.linearAddress o).toNat % o.size = 0) (h3 : s.inRange o = true)
    (h4 : s.locate (s.linearAddress o) = none) :
    s.locateOperand o = .error (s.raisePF o.resolveSite (s.linearAddress o)) := by
  simp [State.locateOperand, h1, (State.aligned_iff o).2 h2, h3, h4]

/-! ### The SECINFO stage -/

theorem State.secinfoPageOk_iff (e : EpcmEntry) :
    s.secinfoPageOk e = true ↔ s.SecinfoPageGood e := by
  have hoff : pageOffset (s.linearAddress .secinfo) =
      ((s.linearAddress .secinfo).setWidth 12).setWidth 64 := by
    unfold pageOffset
    ext i hi
    simp only [BitVec.getElem_and, BitVec.getElem_setWidth, BitVec.getLsbD_setWidth]
    by_cases h : i < 12
    · interval_cases i <;> simp
    · have hz : (0xFFF#64).getLsbD i = false := by
        interval_cases i <;> first | omega | rfl
      simp [h, ← BitVec.getLsbD_eq_getElem, hz]
  have haddr : s.secinfoPageAddress = (match s.cfg.secinfoAddrCmp with
      | .page => s.linearAddress .secinfo &&& ~~~0xFFF
      | .literal => ((s.linearAddress .secinfo).setWidth 12).setWidth 64) := by
    unfold State.secinfoPageAddress
    cases s.cfg.secinfoAddrCmp
    · rfl
    · exact hoff
  unfold State.secinfoPageOk
  rw [haddr]
  constructor
  · intro h
    simp only [Bool.and_eq_true, beq_iff_eq, Bool.not_eq_true'] at h
    obtain ⟨⟨⟨⟨⟨⟨⟨h1, h2⟩, h3⟩, h4⟩, h5⟩, h6⟩, h7⟩, h8⟩ := h
    exact ⟨h1, h2, h3, h4, h5, h6, h7, h8⟩
  · rintro ⟨h1, h2, h3, h4, h5, h6, h7, h8⟩
    simp only [Bool.and_eq_true, beq_iff_eq, Bool.not_eq_true']
    exact ⟨⟨⟨⟨⟨⟨⟨h1, h2⟩, h3⟩, h4⟩, h5⟩, h6⟩, h7⟩, h8⟩

theorem secinfoReservedZero_iff (y : SecinfoLayout) (v : BitVec 512) :
    secinfoReservedZero y v = true ↔
      ∀ r ∈ y.reserved, ∀ i < r.len, v.getLsbD (r.lo + i) = false := by
  have hr : ∀ r : BitRange, v.extractLsb' r.lo r.len = 0 ↔
      ∀ i < r.len, v.getLsbD (r.lo + i) = false := by
    intro r
    constructor
    · intro h i hi
      have := congrArg (fun x => x.getLsbD i) h
      simpa [BitVec.getLsbD_extractLsb', hi] using this
    · intro h
      ext i hi
      simpa [BitVec.getElem_extractLsb'] using h i hi
  simp only [secinfoReservedZero, List.all_eq_true, beq_iff_eq, hr]

/-- Lines 2 to 8 pass exactly under the conditions of R112 to R118. -/
theorem State.secinfoStage_ok :
    s.secinfoStage = .ok f ↔ ∃ le, s.SecinfoPasses le f := by
  unfold State.secinfoStage
  constructor
  · intro h
    cases hl : s.locateOperand .secinfo with
    | error e => simp [hl] at h
    | ok le =>
      simp only [hl] at h
      split at h
      · cases h
      split at h
      · cases h
      rename_i h1 h2
      cases h
      exact ⟨le, (State.locateOperand_ok _).1 hl, (State.secinfoPageOk_iff _).1 (by simpa using h1),
        (secinfoReservedZero_iff _ _).1 (by simpa using h2), rfl⟩
  · rintro ⟨le, h⟩
    simp [(State.locateOperand_ok _).2 h.operand, (State.secinfoPageOk_iff _).2 h.page,
      (secinfoReservedZero_iff _ _).2 h.reserved, h.flags]

/-- When a test of lines 2 to 8 fails, it raises #GP(0), or #PF at LA_SECINFO. -/
theorem State.secinfoStage_error {e : Fault} (h : s.secinfoStage = .error e) :
    e = s.raiseGP ∨ ∃ site, e = s.raisePF site (s.linearAddress .secinfo) := by
  unfold State.secinfoStage at h
  split at h
  · rename_i heq
    cases h
    rcases State.locateOperand_error _ heq with h | h
    · exact .inl h
    · exact .inr ⟨_, h⟩
  · split at h
    · exact .inr ⟨_, by cases h; rfl⟩
    · split at h
      · exact .inl (by cases h; rfl)
      · cases h

/-! ### The page stage -/

theorem legalRequest_iff (y : PageTypes) (cet : Bool) (f : SecinfoFlags) :
    legalRequest y cet f = true ↔ Legal y cet f := by
  simp only [legalRequest, Bool.or_eq_true, Bool.and_eq_true, beq_iff_eq, Bool.not_eq_true']
  constructor <;> intro h <;> tauto

theorem admissibleType_iff (y : PageTypes) (pt : BitVec 8) :
    admissibleType y pt = true ↔ Admissible y pt := by
  simp [admissibleType, Admissible, or_assoc]

theorem State.targetPageOk_iff (e : EpcmEntry) :
    s.targetPageOk e = true ↔ s.TargetGood e := by
  simp only [State.targetPageOk, Bool.and_eq_true, beq_iff_eq, Bool.not_eq_true',
    admissibleType_iff]
  constructor
  · rintro ⟨⟨⟨h1, h2⟩, h3⟩, h4⟩
    exact ⟨h1, h2, h3, h4⟩
  · rintro ⟨h1, h2, h3, h4⟩
    exact ⟨⟨⟨h1, h2⟩, h3⟩, h4⟩

/-- The re-check never fails after R125 has passed (R128). -/
theorem State.recheckOk_of_targetPageOk {e : EpcmEntry} (h : s.targetPageOk e = true) :
    s.recheckOk e = true := by
  have := (State.targetPageOk_iff e).1 h
  simp [State.recheckOk, this.valid, this.owner]

theorem State.pageInUse_iff (p : Nat) : s.pageInUse p = true ↔ p ∈ s.inUse := by
  simp [State.pageInUse]

theorem State.trackingCorrect_iff (p : Nat) : s.trackingCorrect p = true ↔ p ∈ s.tracked := by
  simp [State.trackingCorrect]

/-- Lines 9 to 16 pass exactly under the conditions of R119 to R128. -/
theorem State.pageStage_ok : s.pageStage f = .ok l ↔ s.PagePasses f l := by
  unfold State.pageStage
  constructor
  · intro h
    cases hl : s.locateOperand .page with
    | error e => simp [hl] at h
    | ok l' =>
      simp only [hl] at h
      split at h
      · cases h
      split at h
      · cases h
      split at h
      · cases h
      split at h
      · cases h
      rename_i h1 h2 h3 _
      cases h
      exact ⟨(State.locateOperand_ok _).1 hl, (legalRequest_iff _ _ _).1 (by simpa using h1),
        (State.targetPageOk_iff _).1 (by simpa using h2),
        fun hm => h3 ((State.pageInUse_iff _).2 hm)⟩
  · intro h
    have ht := (State.targetPageOk_iff _).2 h.target
    have hu : s.pageInUse l.page = false := by
      rw [← Bool.not_eq_true, State.pageInUse_iff]
      exact h.free
    simp [(State.locateOperand_ok _).2 h.operand, (legalRequest_iff _ _ _).2 h.legal, ht, hu,
      State.recheckOk_of_targetPageOk ht]

/-- When a test of lines 9 to 16 fails, it raises #GP(0), or #PF at LA_PAGE. -/
theorem State.pageStage_error {e : Fault} (h : s.pageStage f = .error e) :
    e = s.raiseGP ∨ ∃ site, e = s.raisePF site (s.linearAddress .page) := by
  unfold State.pageStage at h
  split at h
  · rename_i heq
    cases h
    rcases State.locateOperand_error _ heq with h | h
    · exact .inl h
    · exact .inr ⟨_, h⟩
  · split at h
    · exact .inl (by cases h; rfl)
    split at h
    · exact .inr ⟨_, by cases h; rfl⟩
    split at h
    · exact .inl (by cases h; rfl)
    split at h
    · exact .inr ⟨_, by cases h; rfl⟩
    · cases h

/-! ### Match, tracking, TCS -/

theorem State.requestMatches_iff (e : EpcmEntry) :
    s.requestMatches f e = true ↔ s.Matches f e := by
  simp only [State.requestMatches, Bool.and_eq_true, beq_iff_eq]
  constructor
  · rintro ⟨⟨⟨⟨⟨⟨h1, h2⟩, h3⟩, h4⟩, h5⟩, h6⟩, h7⟩
    exact ⟨h1, h2, h3, h4, h5, h6, h7⟩
  · rintro ⟨h1, h2, h3, h4, h5, h6, h7⟩
    exact ⟨⟨⟨⟨⟨⟨h1, h2⟩, h3⟩, h4⟩, h5⟩, h6⟩, h7⟩

/-- The TCS tests pass exactly when none of the conditions of R134 to R138 holds. -/
theorem State.tcsOk_iff (pa tmp : Word) : s.tcsOk pa tmp = true ↔ s.TcsFresh pa tmp := by
  have hres : s.tcsReservedZero pa = true ↔ ∀ f ∈ s.cfg.tcs.reserved, ∀ i < f.bytes,
      Memory.read s.mem (pa.toNat + f.offset + i) = 0 := by
    simp only [State.tcsReservedZero, List.all_eq_true, Memory.allZero_iff]
  have hm : s.secsMode64bit tmp = true ↔ tmp.toNat ∈ s.secsMode64 := by
    simp [State.secsMode64bit]
  unfold State.tcsOk
  simp only [Bool.and_eq_true, hres, beq_iff_eq, decide_eq_true_eq, Bool.not_eq_true',
    Bool.and_eq_false_iff, Bool.or_eq_false_iff, bne_eq_false_iff_eq, Bool.not_eq_false', hm,
    State.tcsDbgoptin]
  constructor
  · rintro ⟨⟨⟨⟨h1, ⟨h2, h3⟩, h4⟩, h5⟩, h6⟩, h7⟩
    exact ⟨h1, h2, h3, h4, h5, fun h => (h6.resolve_left (by simp [h])), fun h => h7.resolve_left h⟩
  · rintro ⟨h1, h2, h3, h4, h5, h6, h7⟩
    refine ⟨⟨⟨⟨h1, ⟨h2, h3⟩, h4⟩, h5⟩, ?_⟩, ?_⟩
    · cases h : s.cfg.cpuidCetSs
      · exact .inl rfl
      · exact .inr (h6 h)
    · by_cases h : tmp.toNat ∈ s.secsMode64
      · exact .inl h
      · exact .inr (h7 h)

/-! ### The instruction -/

/-- Once both operands have passed, everything lines 17 to 24 can do. -/
theorem State.acceptStage_cases (s : State) (f : SecinfoFlags) (l : Located) :
    (¬ s.Matches f l.entry ∧
      s.acceptStage f l = .ok (s.completeError s.cfg.pageAttributesMismatch)) ∨
    (s.Matches f l.entry ∧ l.page ∉ s.tracked ∧
      s.acceptStage f l = .ok (s.completeError s.cfg.notTracked)) ∨
    (s.Matches f l.entry ∧ l.page ∈ s.tracked ∧ f.pt = s.cfg.pt.tcs ∧
      ¬ s.TcsFresh l.pa l.entry.enclaveSecs ∧ s.acceptStage f l = .error s.raiseGP) ∨
    (s.Matches f l.entry ∧ l.page ∈ s.tracked ∧
      (f.pt = s.cfg.pt.tcs → s.TcsFresh l.pa l.entry.enclaveSecs) ∧
      s.acceptStage f l = .ok (s.completeAccept l.page)) := by
  unfold State.acceptStage
  by_cases hm : s.Matches f l.entry
  · have hm' := (State.requestMatches_iff _).2 hm
    by_cases hk : l.page ∈ s.tracked
    · have hk' := (State.trackingCorrect_iff _).2 hk
      by_cases hp : f.pt = s.cfg.pt.tcs
      · by_cases hc : s.TcsFresh l.pa l.entry.enclaveSecs
        · exact .inr (.inr (.inr ⟨hm, hk, fun _ => hc, by simp [hm', hk', (State.tcsOk_iff _ _).2 hc]⟩))
        · have hc' : s.tcsOk l.pa l.entry.enclaveSecs = false := by
            rw [← Bool.not_eq_true, State.tcsOk_iff]
            exact hc
          exact .inr (.inr (.inl ⟨hm, hk, hp, hc, by simp [hm', hk', hp, hc']⟩))
      · exact .inr (.inr (.inr ⟨hm, hk, fun h => absurd h hp, by simp [hm', hk', hp]⟩))
    · have hk' : s.trackingCorrect l.page = false := by
        rw [← Bool.not_eq_true, State.trackingCorrect_iff]
        exact hk
      exact .inr (.inl ⟨hm, hk, by simp [hm', hk']⟩)
  · have hm' : s.requestMatches f l.entry = false := by
      rw [← Bool.not_eq_true, State.requestMatches_iff]
      exact hm
    exact .inl ⟨hm, by simp [hm']⟩

/-- What one execution of ENCLU[EACCEPT] can do: refuse, fault before the match, or do what lines 17 to
24 do with the operands that passed. -/
theorem execEncluEaccept_cases (s : State) :
    (¬ s.Admitted ∧ ∃ r, s.leafRefusal = some r ∧ execEncluEaccept s = .refused r) ∨
    (s.Admitted ∧ s.inEnclave = false ∧ execEncluEaccept s = .fault s.raiseGP) ∨
    (∃ e, s.Admitted ∧ s.inEnclave = true ∧ s.secinfoStage = .error e ∧
      execEncluEaccept s = .fault e) ∨
    (∃ f e, s.Admitted ∧ s.inEnclave = true ∧ (∃ le, s.SecinfoPasses le f) ∧
      s.pageStage f = .error e ∧ execEncluEaccept s = .fault e) ∨
    (∃ f l, s.Ready f l ∧ execEncluEaccept s =
      (match s.acceptStage f l with | .error e => .fault e | .ok t => .next t)) := by
  unfold execEncluEaccept State.eaccept
  cases hr : s.leafRefusal with
  | some r =>
    refine .inl ⟨fun h => ?_, r, rfl, rfl⟩
    rw [(State.leafRefusal_eq_none s).2 h] at hr
    cases hr
  | none =>
    have ha := (State.leafRefusal_eq_none s).1 hr
    refine .inr ?_
    cases hi : s.inEnclave with
    | false => exact .inl ⟨ha, rfl, rfl⟩
    | true =>
      refine .inr ?_
      cases hs : s.secinfoStage with
      | error e => exact .inl ⟨e, ha, rfl, rfl, rfl⟩
      | ok f =>
        have hsp := State.secinfoStage_ok.1 hs
        refine .inr ?_
        cases hp : s.pageStage f with
        | error e => exact .inl ⟨f, e, ha, rfl, hsp, hp, by simp [hp]⟩
        | ok l =>
          exact .inr ⟨f, l, ⟨ha, hi, hsp, State.pageStage_ok.1 hp⟩, by simp only [hp]; rfl⟩

/-- A fault of lines 2 to 8 is the fault of the execution. -/
theorem execEncluEaccept_secinfo_error {e : Fault} (ha : s.Admitted) (hi : s.inEnclave = true)
    (h : s.secinfoStage = .error e) : execEncluEaccept s = .fault e := by
  simp [execEncluEaccept, State.eaccept, (State.leafRefusal_eq_none s).2 ha, hi, h]

/-- A fault of lines 9 to 16 is the fault of the execution. -/
theorem execEncluEaccept_page_error {e : Fault} {le : Located} (ha : s.Admitted)
    (hi : s.inEnclave = true) (hs : s.SecinfoPasses le f) (h : s.pageStage f = .error e) :
    execEncluEaccept s = .fault e := by
  simp [execEncluEaccept, State.eaccept, (State.leafRefusal_eq_none s).2 ha, hi,
    State.secinfoStage_ok.2 ⟨le, hs⟩, h]

/-- With both operands passed, the execution is what lines 17 to 24 do. -/
theorem execEncluEaccept_ready (h : s.Ready f l) :
    execEncluEaccept s =
      (match s.acceptStage f l with | .error e => .fault e | .ok t => .next t) := by
  unfold execEncluEaccept State.eaccept
  simp only [(State.leafRefusal_eq_none s).2 h.admitted, h.inside, State.secinfoStage_ok.2 h.secinfo,
    State.pageStage_ok.2 h.target]
  rfl

/-- The operands that pass are determined by the state. -/
theorem State.Ready.unique {f' : SecinfoFlags} {l' : Located} (h : s.Ready f l)
    (h' : s.Ready f' l') : f' = f ∧ l' = l := by
  have e1 := (State.secinfoStage_ok.2 h.secinfo).symm.trans (State.secinfoStage_ok.2 h'.secinfo)
  cases e1
  have e2 := (State.pageStage_ok.2 h.target).symm.trans (State.pageStage_ok.2 h'.target)
  cases e2
  exact ⟨rfl, rfl⟩

/-- Every next state is one of the three completions of R144. -/
theorem execEncluEaccept_next (h : execEncluEaccept s = .next t) :
    ∃ f l, s.Ready f l ∧
      ((¬ s.Matches f l.entry ∧ t = s.completeError s.cfg.pageAttributesMismatch) ∨
       (s.Matches f l.entry ∧ l.page ∉ s.tracked ∧ t = s.completeError s.cfg.notTracked) ∨
       (s.Acceptable f l ∧ t = s.completeAccept l.page)) := by
  rcases execEncluEaccept_cases s with ⟨_, r, _, hr⟩ | ⟨_, _, hr⟩ | ⟨e, _, _, _, hr⟩ |
    ⟨f, e, _, _, _, _, hr⟩ | ⟨f, l, hrd, hr⟩
  · rw [hr] at h; cases h
  · rw [hr] at h; cases h
  · rw [hr] at h; cases h
  · rw [hr] at h; cases h
  · refine ⟨f, l, hrd, ?_⟩
    rw [hr] at h
    rcases State.acceptStage_cases s f l with ⟨hm, ha⟩ | ⟨hm, hk, ha⟩ | ⟨_, _, _, _, ha⟩ |
      ⟨hm, hk, hc, ha⟩
    · rw [ha] at h; cases h; exact .inl ⟨hm, rfl⟩
    · rw [ha] at h; cases h; exact .inr (.inl ⟨hm, hk, rfl⟩)
    · rw [ha] at h; cases h
    · rw [ha] at h; cases h; exact .inr (.inr ⟨⟨hrd, hm, hk, hc⟩, rfl⟩)

/-! ### Completion -/

/-- The bits of RFLAGS other than the six keep their values through a completion (R27, R141). -/
theorem getLsbD_completionFlags (r : Word) (zf : Bool) (i : Nat) (h : ∀ g : StatusFlag, i ≠ g.bit) :
    (clearDoneFlags (writeFlag r .zf zf)).getLsbD i = r.getLsbD i := by
  have hc := h .cf
  have hp := h .pf
  have ha := h .af
  have hs := h .sf
  have ho := h .of
  simp only [StatusFlag.bit] at hc hp ha hs ho
  rw [getLsbD_clearDoneFlags, getLsbD_writeFlag, if_neg (h .zf), if_neg (by omega)]

/-- The status flags after a completion (R141). -/
theorem readFlag_completionFlags (r : Word) (zf : Bool) (g : StatusFlag) :
    readFlag (clearDoneFlags (writeFlag r .zf zf)) g = (decide (g = .zf) && zf) := by
  rw [readFlag_clearDoneFlags, readFlag_writeFlag, if_pos rfl]
  cases g <;> cases zf <;> rfl

/-- pc after a completion, by mode (R25). -/
theorem State.pcPlus_toNat32 (s : State) (n : Nat) (h : s.mode64 = false) :
    (s.pcPlus n).toNat = (s.pc.toNat + n) % 2 ^ 32 := by
  simp only [State.pcPlus, h, Bool.false_eq_true, if_false, BitVec.toNat_setWidth,
    BitVec.toNat_add, BitVec.toNat_ofNat]
  omega

theorem State.pcPlus_64 (s : State) (n : Nat) (h : s.mode64 = true) :
    s.pcPlus n = s.pc + BitVec.ofNat 64 n := by
  simp [State.pcPlus, h]

theorem completeError_completed (s : State) (c : Word) :
    Completed s (s.completeError c) true where
  zf := readFlag_completionFlags s.rflags true .zf
  cf := readFlag_completionFlags s.rflags true .cf
  pf := readFlag_completionFlags s.rflags true .pf
  af := readFlag_completionFlags s.rflags true .af
  of := readFlag_completionFlags s.rflags true .of
  sf := readFlag_completionFlags s.rflags true .sf
  pc64 := s.pcPlus_64 _
  pc32 := s.pcPlus_toNat32 _

theorem completeAccept_completed (s : State) (p : Nat) :
    Completed s (s.completeAccept p) false where
  zf := readFlag_completionFlags s.rflags false .zf
  cf := readFlag_completionFlags s.rflags false .cf
  pf := readFlag_completionFlags s.rflags false .pf
  af := readFlag_completionFlags s.rflags false .af
  of := readFlag_completionFlags s.rflags false .of
  sf := readFlag_completionFlags s.rflags false .sf
  pc64 := s.pcPlus_64 _
  pc32 := s.pcPlus_toNat32 _

theorem completeError_framed (s : State) (c : Word) : Framed s (s.completeError c) := by
  constructor <;> try (intros; rfl)
  · intro g hg
    rw [State.reg_completeError, if_neg hg]
  · intro i hi
    exact getLsbD_completionFlags s.rflags true i hi

theorem completeAccept_framed (s : State) (p : Nat) : Framed s (s.completeAccept p) := by
  constructor <;> try (intros; rfl)
  · intro g hg
    rw [State.reg_completeAccept, if_neg hg]
  · intro i hi
    exact getLsbD_completionFlags s.rflags false i hi

/-- The three completions by their conditions. -/
theorem execEncluEaccept_acceptable (h : s.Acceptable f l) :
    execEncluEaccept s = .next (s.completeAccept l.page) := by
  rw [execEncluEaccept_ready h.ready]
  rcases State.acceptStage_cases s f l with ⟨h', _⟩ | ⟨_, h', _⟩ | ⟨_, _, hp, hn, _⟩ |
    ⟨_, _, _, h'⟩
  · exact absurd h.matched h'
  · exact absurd h.tracked h'
  · exact absurd (h.tcs hp) hn
  · rw [h']

theorem execEncluEaccept_mismatch (h : s.Ready f l) (hm : ¬ s.Matches f l.entry) :
    execEncluEaccept s = .next (s.completeError s.cfg.pageAttributesMismatch) := by
  rw [execEncluEaccept_ready h]
  rcases State.acceptStage_cases s f l with ⟨_, h'⟩ | ⟨h', _⟩ | ⟨h', _⟩ | ⟨h', _⟩
  · rw [h']
  all_goals exact absurd h' hm

theorem execEncluEaccept_notTracked (h : s.Ready f l) (hm : s.Matches f l.entry)
    (hk : l.page ∉ s.tracked) :
    execEncluEaccept s = .next (s.completeError s.cfg.notTracked) := by
  rw [execEncluEaccept_ready h]
  rcases State.acceptStage_cases s f l with ⟨h', _⟩ | ⟨_, _, h'⟩ | ⟨_, h', _⟩ | ⟨_, h', _⟩
  · exact absurd hm h'
  · rw [h']
  all_goals exact absurd h' hk

end Sys2Proof.Machine
end

