-- ==== Sys2Proof/Laws/Agree.lean ====
section
/-! SUPPORT. Two states that agree on what EACCEPT reads have the same outcome. The mark PR of an EPCM
entry is not among it (R116, R145). -/

namespace Sys2Proof.Machine

variable {s s' : State}

/-- The same page with another mark PR. -/
def Located.withPr (l : Located) (b : Bool) : Located := { l with entry := { l.entry with pr := b } }

@[simp] theorem Located.withPr_pa (l : Located) (b : Bool) : (l.withPr b).pa = l.pa := rfl
@[simp] theorem Located.withPr_page (l : Located) (b : Bool) : (l.withPr b).page = l.page := rfl
@[simp] theorem State.secinfoPageOk_withPr (s : State) (l : Located) (b : Bool) :
    s.secinfoPageOk (l.withPr b).entry = s.secinfoPageOk l.entry := rfl
@[simp] theorem State.targetPageOk_withPr (s : State) (l : Located) (b : Bool) :
    s.targetPageOk (l.withPr b).entry = s.targetPageOk l.entry := rfl
@[simp] theorem State.recheckOk_withPr (s : State) (l : Located) (b : Bool) :
    s.recheckOk (l.withPr b).entry = s.recheckOk l.entry := rfl
@[simp] theorem State.requestMatches_withPr (s : State) (f : SecinfoFlags) (l : Located) (b : Bool) :
    s.requestMatches f (l.withPr b).entry = s.requestMatches f l.entry := rfl

/-- The states agree on the address tests of an operand and, up to PR, on where it leads. -/
structure AgreesAt (s s' : State) (o : Operand) : Prop where
  form : s'.addressForm o = s.addressForm o
  linear : s'.linearAddress o = s.linearAddress o
  elrange : s'.elrange = s.elrange
  locate : (s.locate (s.linearAddress o) = none ∧ s'.locate (s.linearAddress o) = none) ∨
    ∃ l b, s.locate (s.linearAddress o) = some l ∧
      s'.locate (s.linearAddress o) = some (l.withPr b)

/-- The states agree on everything the instruction reads. -/
structure Agrees (s s' : State) : Prop where
  refusal : s'.leafRefusal = s.leafRefusal
  inEnclave : s'.inEnclave = s.inEnclave
  cfg : s'.cfg = s.cfg
  activeSecs : s'.activeSecs = s.activeSecs
  inUse : s'.inUse = s.inUse
  tracked : s'.tracked = s.tracked
  operand : ∀ o, AgreesAt s s' o
  secinfo : ∀ l, s.OperandAt .secinfo l → s'.readSecinfo l.pa = s.readSecinfo l.pa
  tcs : ∀ f l, s.Ready f l → f.pt = s.cfg.pt.tcs →
    s'.tcsOk l.pa l.entry.enclaveSecs = s.tcsOk l.pa l.entry.enclaveSecs

/-- States that find the same page agree on where the operand leads. -/
theorem AgreesAt.of_locate_eq {o : Operand} (h1 : s'.addressForm o = s.addressForm o)
    (h2 : s'.linearAddress o = s.linearAddress o) (h3 : s'.elrange = s.elrange)
    (h4 : s'.locate (s.linearAddress o) = s.locate (s.linearAddress o)) : AgreesAt s s' o := by
  refine ⟨h1, h2, h3, ?_⟩
  cases hl : s.locate (s.linearAddress o) with
  | none => exact .inl ⟨rfl, h4.trans hl⟩
  | some l => exact .inr ⟨l, l.entry.pr, rfl, h4.trans hl⟩

/-- The same address test fails in both states, the same way. -/
theorem AgreesAt.locateOperand {o : Operand} (h : AgreesAt s s' o) :
    (s.locateOperand o = .error s.raiseGP ∧ s'.locateOperand o = .error s'.raiseGP) ∨
    (s.locateOperand o = .error (s.raisePF o.resolveSite (s.linearAddress o)) ∧
      s'.locateOperand o = .error (s'.raisePF o.resolveSite (s.linearAddress o))) ∨
    (∃ l b, s.locateOperand o = .ok l ∧ s'.locateOperand o = .ok (l.withPr b)) := by
  have ha : s'.aligned o = s.aligned o := by unfold State.aligned; rw [h.linear]
  have hr : s'.inRange o = s.inRange o := by unfold State.inRange; rw [h.linear, h.elrange]
  unfold State.locateOperand
  rw [h.form, ha, hr, h.linear]
  rcases h.locate with ⟨h1, h2⟩ | ⟨l, b, h1, h2⟩ <;> rw [h1, h2] <;>
    cases s.addressForm o <;> cases s.aligned o <;> cases s.inRange o <;> simp
  cases b <;> simp

/-- Lines 2 to 8 end alike when the states agree on the SECINFO operand. -/
theorem secinfoStage_agree (hc : s'.cfg = s.cfg) (hs : s'.activeSecs = s.activeSecs)
    (h : AgreesAt s s' .secinfo)
    (hr : ∀ l, s.OperandAt .secinfo l → s'.readSecinfo l.pa = s.readSecinfo l.pa) :
    (s.secinfoStage = .error s.raiseGP ∧ s'.secinfoStage = .error s'.raiseGP) ∨
    (∃ site, s.secinfoStage = .error (s.raisePF site (s.linearAddress .secinfo)) ∧
      s'.secinfoStage = .error (s'.raisePF site (s.linearAddress .secinfo))) ∨
    (∃ f, s.secinfoStage = .ok f ∧ s'.secinfoStage = .ok f) := by
  have hok : ∀ e, s'.secinfoPageOk e = s.secinfoPageOk e := by
    intro e
    unfold State.secinfoPageOk State.secinfoPageAddress
    rw [hc, hs, h.linear]
  unfold State.secinfoStage
  rcases h.locateOperand with ⟨h1, h2⟩ | ⟨h1, h2⟩ | ⟨l, b, h1, h2⟩
  · exact .inl ⟨by rw [h1], by rw [h2]⟩
  · exact .inr (.inl ⟨_, by rw [h1], by rw [h2]⟩)
  · have hl := hr l ((State.locateOperand_ok _).1 h1)
    rw [h1, h2]
    simp only [hok, hl, hc, h.linear, Located.withPr_pa, State.secinfoPageOk_withPr]
    cases s.secinfoPageOk l.entry <;>
      cases secinfoReservedZero s.cfg.secinfo (s.readSecinfo l.pa) <;> simp
    · exact .inr ⟨_, rfl, rfl⟩
    · exact .inr ⟨_, rfl, rfl⟩

/-- States that agree refuse alike, fault alike, or complete alike. -/
theorem execEncluEaccept_agree (h : Agrees s s') :
    (∃ r, execEncluEaccept s = .refused r ∧ execEncluEaccept s' = .refused r) ∨
    (execEncluEaccept s = .fault s.raiseGP ∧ execEncluEaccept s' = .fault s'.raiseGP) ∨
    (∃ site la, execEncluEaccept s = .fault (s.raisePF site la) ∧
      execEncluEaccept s' = .fault (s'.raisePF site la)) ∨
    (∃ c, execEncluEaccept s = .next (s.completeError c) ∧
      execEncluEaccept s' = .next (s'.completeError c)) ∨
    (∃ l, s.locate (s.linearAddress .page) = some l ∧
      execEncluEaccept s = .next (s.completeAccept l.page) ∧
      execEncluEaccept s' = .next (s'.completeAccept l.page)) := by
  cases hr : s.leafRefusal with
  | some r =>
    exact .inl ⟨r, by simp [execEncluEaccept, hr], by simp [execEncluEaccept, h.refusal, hr]⟩
  | none =>
    have ha := (State.leafRefusal_eq_none s).1 hr
    have hr' := h.refusal.trans hr
    have ha' := (State.leafRefusal_eq_none s').1 hr'
    refine .inr ?_
    cases hi : s.inEnclave with
    | false =>
      have hi' := h.inEnclave.trans hi
      exact .inl ⟨by simp [execEncluEaccept, State.eaccept, hr, hi],
        by simp [execEncluEaccept, State.eaccept, hr', hi']⟩
    | true =>
      have hi' := h.inEnclave.trans hi
      rcases secinfoStage_agree h.cfg h.activeSecs (h.operand .secinfo) h.secinfo with
        ⟨h1, h2⟩ | ⟨site, h1, h2⟩ | ⟨f, h1, h2⟩
      · exact .inl ⟨execEncluEaccept_secinfo_error ha hi h1,
          execEncluEaccept_secinfo_error ha' hi' h2⟩
      · exact .inr (.inl ⟨_, _, execEncluEaccept_secinfo_error ha hi h1,
          execEncluEaccept_secinfo_error ha' hi' h2⟩)
      obtain ⟨le, hs⟩ := State.secinfoStage_ok.1 h1
      obtain ⟨le', hs'⟩ := State.secinfoStage_ok.1 h2
      have htg : ∀ e, s'.targetPageOk e = s.targetPageOk e := by
        intro e
        unfold State.targetPageOk
        rw [h.cfg, h.activeSecs]
      have hrc : ∀ e, s'.recheckOk e = s.recheckOk e := by
        intro e
        unfold State.recheckOk
        rw [h.activeSecs]
      have hu : ∀ p, s'.pageInUse p = s.pageInUse p := by
        intro p
        unfold State.pageInUse
        rw [h.inUse]
      have hp : (s.pageStage f = .error s.raiseGP ∧ s'.pageStage f = .error s'.raiseGP) ∨
          (∃ site la, s.pageStage f = .error (s.raisePF site la) ∧
            s'.pageStage f = .error (s'.raisePF site la)) ∨
          (∃ l b, s.pageStage f = .ok l ∧ s'.pageStage f = .ok (l.withPr b)) := by
        unfold State.pageStage
        rcases (h.operand .page).locateOperand with ⟨h3, h4⟩ | ⟨h3, h4⟩ | ⟨l, b, h3, h4⟩
        · exact .inl ⟨by rw [h3], by rw [h4]⟩
        · exact .inr (.inl ⟨_, _, by rw [h3], by rw [h4]⟩)
        · rw [h3, h4]
          simp only [htg, hrc, hu, h.cfg, (h.operand .page).linear, Located.withPr_page,
            State.targetPageOk_withPr, State.recheckOk_withPr]
          cases legalRequest s.cfg.pt s.cfg.sgxAttrCet f
          · exact .inl ⟨by simp, by simp⟩
          cases s.targetPageOk l.entry
          · exact .inr (.inl ⟨.pageAttributes, s.linearAddress .page, by simp, by simp⟩)
          cases s.pageInUse l.page
          · cases s.recheckOk l.entry
            · exact .inr (.inl ⟨.pageRecheck, s.linearAddress .page, by simp, by simp⟩)
            · exact .inr (.inr ⟨l, b, by simp, by simp⟩)
          · exact .inl ⟨by simp, by simp⟩
      rcases hp with ⟨h3, h4⟩ | ⟨site, la, h3, h4⟩ | ⟨l, b, h3, h4⟩
      · exact .inl ⟨execEncluEaccept_page_error ha hi hs h3,
          execEncluEaccept_page_error ha' hi' hs' h4⟩
      · exact .inr (.inl ⟨site, la, execEncluEaccept_page_error ha hi hs h3,
          execEncluEaccept_page_error ha' hi' hs' h4⟩)
      have hrd : s.Ready f l := ⟨ha, hi, ⟨le, hs⟩, State.pageStage_ok.1 h3⟩
      have hrd' : s'.Ready f (l.withPr b) := ⟨ha', hi', ⟨le', hs'⟩, State.pageStage_ok.1 h4⟩
      have hm : s'.requestMatches f (l.withPr b).entry = s.requestMatches f l.entry := by
        rw [State.requestMatches_withPr]
        unfold State.requestMatches
        rw [(h.operand .page).linear]
      have hk : s'.trackingCorrect (l.withPr b).page = s.trackingCorrect l.page := by
        unfold State.trackingCorrect
        rw [h.tracked, Located.withPr_page]
      rw [execEncluEaccept_ready hrd, execEncluEaccept_ready hrd']
      unfold State.acceptStage
      rw [hm, hk, h.cfg]
      cases s.requestMatches f l.entry
      · exact .inr (.inr (.inl ⟨_, rfl, rfl⟩))
      cases s.trackingCorrect l.page
      · exact .inr (.inr (.inl ⟨_, rfl, rfl⟩))
      by_cases hpt : f.pt = s.cfg.pt.tcs
      · have ht : s'.tcsOk (l.withPr b).pa (l.withPr b).entry.enclaveSecs =
            s.tcsOk l.pa l.entry.enclaveSecs := h.tcs f l hrd hpt
        rw [ht]
        cases s.tcsOk l.pa l.entry.enclaveSecs
        · exact .inl ⟨by simp [hpt], by simp [hpt]⟩
        · exact .inr (.inr (.inr ⟨l, hrd.target.operand.resolves, by simp, by simp⟩))
      · exact .inr (.inr (.inr ⟨l, hrd.target.operand.resolves, by simp [hpt], by simp [hpt]⟩))

end Sys2Proof.Machine
end

