-- ==== Sys2Proof/Laws/Pages.lean ====
section
/-! SUPPORT. Page addresses as numbers. -/

namespace Sys2Proof.Machine

/-- The page base is the address rounded down to a multiple of 4096. -/
theorem pageBase_toNat (a : Word) : (pageBase a).toNat = a.toNat / 4096 * 4096 := by
  have hx : pageBase a = (a >>> 12) <<< 12 := by
    unfold pageBase
    ext i hi
    simp only [BitVec.getElem_and, BitVec.getElem_shiftLeft, BitVec.getElem_not]
    by_cases h : i < 12
    · interval_cases i <;> simp
    · have hz : (0xFFF#64).getLsbD i = false := by
        interval_cases i <;> first | omega | rfl
      have : 12 + (i - 12) = i := by omega
      simp [h, ← BitVec.getLsbD_eq_getElem, hz, this]
  rw [hx]
  simp only [BitVec.toNat_shiftLeft, BitVec.toNat_ushiftRight, Nat.shiftLeft_eq,
    Nat.shiftRight_eq_div_pow]
  have := a.isLt
  omega

/-- The page an operand leads to is the key its entry stands under (R68). -/
theorem State.lookup_locate {s : State} {la : Word} {l : Located} (h : s.locate la = some l) :
    lookup l.page s.epcm = some l.entry := by
  unfold State.locate at h
  split at h
  · cases h
  · simp only [Option.map_eq_some_iff] at h
    obtain ⟨e, he, rfl⟩ := h
    exact he

/-- After an EPCM entry is written, every address leads where it led, and finds the new entry exactly
when it leads to that page. -/
theorem State.locate_updateEpcm (s : State) (page : Nat) (f : EpcmEntry → EpcmEntry) (la : Word) :
    (s.updateEpcm page f).locate la =
      (s.locate la).map fun l => if l.page = page then { l with entry := f l.entry } else l := by
  have ht : (s.updateEpcm page f).translate la .read = s.translate la .read := rfl
  have hl : ∀ p, lookup p (s.updateEpcm page f).epcm =
      if p = page then (lookup p s.epcm).map f else lookup p s.epcm :=
    lookup_updateAt page f s.epcm
  unfold State.locate
  rw [ht]
  cases s.translate la .read with
  | none => rfl
  | some pa =>
    simp only [hl]
    by_cases hp : (pageBase pa).toNat = page
    · rw [if_pos hp]
      cases lookup (pageBase pa).toNat s.epcm with
      | none => rfl
      | some e => exact congrArg some (if_pos (c := (⟨pa, e⟩ : Located).page = page) hp).symm
    · rw [if_neg hp]
      cases lookup (pageBase pa).toNat s.epcm with
      | none => rfl
      | some e => exact congrArg some (if_neg (c := (⟨pa, e⟩ : Located).page = page) hp).symm

end Sys2Proof.Machine
end

