-- ==== Sys2Proof/Laws/PerInstr.lean ====
section
/-! SUPPORT. What holds of every instruction as syntax, one lemma per constructor of Instr. -/

namespace Sys2Proof.Laws.EncodedLength

/-- The encoding has the three bytes of R91, and no instruction carries a field that could be ill
formed (R94). -/
def Statement (i : Instr) : Prop := (encode i).length = maxInstrBytes ∧ i.wf = true

theorem encluEaccept : Statement .encluEaccept := ⟨rfl, rfl⟩

end Sys2Proof.Laws.EncodedLength
end

