-- ==== Sys2Proof/Tests/Slice0.lean ====
section
/-! SUPPORT. The model's own tests: the checks of WellFormed refuse, the decoder reads words written out
from the spec, one step from each vector of spec/95_test_vectors.md section 3, and a witness for the
hypotheses of every obligation. Expected results come from the spec, never from the model. -/

namespace Sys2Proof.Tests

open Sys2Proof.Machine

/-! ### WellFormed: each check refuses an ill-formed term -/

theorem test_wf_defaults : defaultConfig.wf ∧ Instr.encluEaccept.wf = true := by decide

theorem test_wf_page_types_distinct : ¬ ({ defaultPageTypes with trim := 1 } : PageTypes).wf := by
  decide

theorem test_wf_error_codes :
    ¬ ({ defaultConfig with pageAttributesMismatch := 0 } : Config).errorsWf ∧
    ¬ ({ defaultConfig with notTracked := 0 } : Config).errorsWf ∧
    ¬ ({ defaultConfig with notTracked := 19 } : Config).errorsWf := by decide

theorem test_wf_secinfo_layout :
    ¬ ({ defaultSecinfoLayout with pr := 64 } : SecinfoLayout).wf ∧
    ¬ ({ defaultSecinfoLayout with pr := 4 } : SecinfoLayout).wf ∧
    ¬ ({ defaultSecinfoLayout with pr := 6 } : SecinfoLayout).wf := by decide

theorem test_wf_tcs_layout :
    ¬ ({ defaultTcsLayout with reserved := [⟨88, 4009⟩] } : TcsLayout).wf ∧
    ¬ ({ defaultTcsLayout with aep := ⟨39, 8⟩ } : TcsLayout).wf ∧
    ¬ ({ defaultTcsLayout with dbgoptin := 64 } : TcsLayout).wf := by decide

theorem test_wf_linear_bits :
    ¬ ({ defaultConfig with linearBits := 0 } : Config).linearBitsWf ∧
    ¬ ({ defaultConfig with linearBits := 65 } : Config).linearBitsWf := by decide

/-! ### Decoding -/

/-- 30_encoding.md R91 and R92: byte 2 is ModRM with mod = 11b, reg = 010b, rm = 111b. -/
theorem test_decode_enclu :
    decode [0b00001111, 0b00000001, 0b11_010_111] = .ok (.encluEaccept, []) := by decide

/-- R96: one bit away in any of the three bytes is no instruction of the spec. R97: nor is a prefix. -/
theorem test_decode_rejects :
    decode [0x0F, 0x01, 0xD6] = .error .notEnclu ∧ decode [0x0F, 0x00, 0xD7] = .error .notEnclu ∧
    decode [0x0E, 0x01, 0xD7] = .error .notEnclu ∧ decode [0x0F, 0x01] = .error .truncated ∧
    decode [0x66, 0x0F, 0x01, 0xD7] = .error (.prefixed 0x66) := by decide

/-! ### The reference state of spec/95_test_vectors.md section 2 -/

/-- The EPCM entry `e` of the SECINFO page. -/
def refE : EpcmEntry where
  valid := true
  r := true
  w := true
  x := false
  pt := 2
  enclaveSecs := 0x80000000
  enclaveAddress := 0x10002000
  blocked := false
  pending := false
  modified := false
  pr := false

/-- The EPCM entry `t` of the target page. -/
def refT : EpcmEntry := { refE with enclaveAddress := 0x10005000, pending := true }

/-- REF. Of the EPC's pages three are listed: no vector reaches another. -/
def ref : State :=
  { State.reset with
    regs := { Regs.reset with rbx := 0x10002040, rcx := 0x10005000 }
    pc := 0x10001000
    rflags := 0x0AD7
    ds := ⟨0, 0xFFFFFFFF⟩
    mode64 := true
    inEnclave := true
    elrange := ⟨0x10000000, 0x01000000⟩
    activeSecs := 0x80000000
    text := [(0x10001000, 0x0F), (0x10001001, 0x01), (0x10001002, 0xD7)]
    mem := [(0x80002040, 0x0B), (0x80002041, 0x02)]
    translation := [(0x10002000, 0x80002000), (0x10005000, 0x80005000),
      (0x10006000, 0x00306000), (0x10008000, 0x80008000)]
    epcm := [(0x80002000, refE), (0x80005000, refT), (0x80008000, { refE with valid := false })]
    tracked := [0x80002000, 0x80005000, 0x80008000]
    secsMode64 := [0x80000000] }

/-- Change `e`. -/
def onE (f : EpcmEntry → EpcmEntry) (s : State) : State := s.updateEpcm 0x80002000 f
/-- Change `t`. -/
def onT (f : EpcmEntry → EpcmEntry) (s : State) : State := s.updateEpcm 0x80005000 f
/-- Bytes of physical memory, the first at the lowest address. -/
def poke (a : Nat) : List Byte → State → State
  | [], s => s
  | b :: bs, s => poke (a + 1) bs { s with mem := Memory.write s.mem a b }
/-- The two low bytes of the SECINFO's FLAGS. -/
def flags (n : Nat) : State → State := poke 0x80002040 [BitVec.ofNat 8 n, BitVec.ofNat 8 (n / 256)]
def rax (v : Word) (s : State) : State := s.setReg .rax v
def rbx (v : Word) (s : State) : State := s.setReg .rbx v
def rcx (v : Word) (s : State) : State := s.setReg .rcx v
/-- SGX_ATTR_CET = 1. -/
def cet (s : State) : State := { s with cfg := { s.cfg with sgxAttrCet := true } }
/-- CPUID_CET_SS = 1. -/
def cetSs (s : State) : State := { s with cfg := { s.cfg with cpuidCetSs := true } }
/-- SECINFO_ADDR_CMP = literal. -/
def literal (s : State) : State := { s with cfg := { s.cfg with secinfoAddrCmp := .literal } }
/-- MODE64 = false. -/
def mode32 (s : State) : State := { s with mode64 := false }
def ds (base : Word) (limit : BitVec 32) (s : State) : State := { s with ds := ⟨base, limit⟩ }
def untracked (s : State) : State := { s with tracked := [] }
def locked (s : State) : State := { s with inUse := [0x80005000] }
def outside (s : State) : State := { s with inEnclave := false }
/-- SECS_MODE64BIT = 0. -/
def secs32 (s : State) : State := { s with secsMode64 := [] }

/-- V2: the target is a permission-restricted page. -/
def v2 : State := flags 0x0221 (onT (fun t => { t with w := false, pending := false, pr := true }) ref)

/-- The contents TCS0: OSSA 3000, NSSA 2, OENTRY 1000, OFSBASE and OGSBASE 9000, FSLIMIT and GSLIMIT
FFF, all else 0. -/
def tcs0 (s : State) : State :=
  poke 0x80005011 [0x30] <| poke 0x8000501C [2] <| poke 0x80005021 [0x10] <|
  poke 0x80005031 [0x90] <| poke 0x80005039 [0x90] <| poke 0x80005040 [0xFF, 0x0F] <|
  poke 0x80005044 [0xFF, 0x0F] s

/-- `t` as a page changed to a type by system software. -/
def changed (pt : BitVec 8) : State → State :=
  onT fun t => { t with r := false, w := false, x := false, pt := pt, pending := false, modified := true }

/-- V3: a new TCS. -/
def v3 : State := tcs0 (flags 0x0110 (changed 1 ref))

/-! ### The vectors -/

/-- What a vector says of a step; the #PF error code is open (R168) and not looked at. -/
inductive View where
  /-- Done(RAX, RFLAGS), with pc, and the marks PENDING, MODIFIED, PR of `t` afterwards. -/
  | done (rax rflags pc : Word) (pending modified pr : Bool)
  | gp0
  | pf (la : Word)
  | refused (r : Refusal)
  | other
deriving DecidableEq, Repr

/-- The view of one step from a state; a fault must carry that state unchanged (R143, R175). -/
def view (s : State) : View :=
  match step s with
  | .next u => match lookup 0x80005000 u.epcm with
    | some t => .done (u.reg .rax) u.rflags u.pc t.pending t.modified t.pr
    | none => .other
  | .fault (.gp c s') => if c = 0 ∧ s' = s then .gp0 else .other
  | .fault (.pf _ la s') => if s' = s then .pf la else .other
  | .refused r => .refused r

/-- Success from the flags of REF. -/
def ok : View := .done 0 0x0202 0x10001003 false false false
/-- An error code from the flags of REF, with the marks of `t` as they are in the end. -/
def err (code : Word) (pending modified pr : Bool) : View :=
  .done code 0x0242 0x10001003 pending modified pr

abbrev Vec := String × State × View

/-- 3.1 and 3.2. -/
def vectors1 : List Vec := [
  ("V1", ref, ok),
  ("V2", v2, ok),
  ("V3", v3, ok),
  ("V4", poke 0x80005000 [0xFF, 1, 2] (flags 0x0410 (changed 4 ref)), ok),
  ("V4a", cet (flags 0x050B (onT (fun t => { t with pt := 5 }) ref)), ok),
  ("V4b", cet (flags 0x060B (onT (fun t => { t with pt := 6 }) ref)), ok),
  ("V5", flags 0x0209 ref, err 19 true false false),
  ("V5a", flags 0x020F ref, err 19 true false false),
  ("V5b", onT (fun t => { t with enclaveAddress := 0x10009000 }) ref, err 19 true false false),
  ("V5c", flags 0x0410 (changed 1 ref), err 19 false true false),
  ("V5d", onT (fun t => { t with pending := false }) ref, err 19 false false false),
  ("V5e", onT (fun t => { t with modified := true }) ref, err 19 true true false),
  ("V5f", flags 0x0229 ref, err 19 true false false),
  ("V6", untracked v2, err 11 false false true),
  ("V6a", untracked ref, err 11 true false false)]

/-- 3.3. -/
def vectors2 : List Vec := [
  ("V7", rbx 0x10002020 ref, .gp0),
  ("V7a", rbx 0x10002041 ref, .gp0),
  ("V7b", rbx 0x1000207F ref, .gp0),
  ("V7c", poke 0x80002FC0 [0x0B, 0x02] (rbx 0x10002FC0 ref), ok),
  ("V8", rbx 0x0FFFFFC0 ref, .gp0),
  ("V8a", rbx 0x11000000 ref, .gp0),
  ("V8b", rbx 0x10FFFFC0 ref, .pf 0x10FFFFC0),
  ("V9", rbx 0x10007040 ref, .pf 0x10007040),
  ("V9a", rbx 0x10006040 ref, .pf 0x10006040),
  ("V8c", rbx 0x0000800010002040 ref, .gp0),
  ("V8d", rbx 0xFFFF800010002040 ref, .gp0),
  ("V9b 1", literal ref, .pf 0x10002040),
  ("V9b 2", onE (fun e => { e with enclaveAddress := 0x40 }) ref, .pf 0x10002040),
  ("V9b 2 literal", literal (onE (fun e => { e with enclaveAddress := 0x40 }) ref), ok),
  ("V9b 4 literal", literal (poke 0x80002000 [0x0B, 0x02] (rbx 0x10002000 ref)), .pf 0x10002000)]

/-- 3.4 and 3.5. -/
def vectors3 : List Vec := [
  ("V10a", onE (fun e => { e with valid := false }) ref, .pf 0x10002040),
  ("V10b", onE (fun e => { e with r := false }) ref, .pf 0x10002040),
  ("V10c", onE (fun e => { e with pending := true }) ref, .pf 0x10002040),
  ("V10d", onE (fun e => { e with modified := true }) ref, .pf 0x10002040),
  ("V10e", onE (fun e => { e with blocked := true }) ref, .pf 0x10002040),
  ("V10f", onE (fun e => { e with pt := 1 }) ref, .pf 0x10002040),
  ("V10g", onE (fun e => { e with enclaveSecs := 0x80010000 }) ref, .pf 0x10002040),
  ("V10h", onE (fun e => { e with enclaveAddress := 0x10003000 }) ref, .pf 0x10002040),
  ("V10i", onE (fun e => { e with w := false, x := true, pr := true }) ref, ok),
  ("V11", flags 0x024B ref, .gp0),
  ("V11a", flags 0x028B ref, .gp0),
  ("V11b", poke 0x80002042 [1] ref, .gp0),
  ("V11c", poke 0x80002047 [0x80] ref, .gp0),
  ("V11d", poke 0x80002048 [1] ref, .gp0),
  ("V11e", poke 0x8000207F [0x80] ref, .gp0)]

/-- 3.6. -/
def vectors4 : List Vec := [
  ("V12", rcx 0x10005800 ref, .gp0),
  ("V12a", rcx 0x10005001 ref, .gp0),
  ("V12b", rcx 0x0FFFF000 ref, .gp0),
  ("V12c", rcx 0x11000000 ref, .gp0),
  ("V12d", rcx 0x10007000 ref, .pf 0x10007000),
  ("V12e", rcx 0x10006000 ref, .pf 0x10006000),
  ("V12f", rcx 0x8000000010005000 ref, .gp0),
  ("V12g", rcx 0x10FFF000 ref, .pf 0x10FFF000),
  ("V12h", mode32 ref, ok),
  ("V12i", mode32 (rbx 0xFFFFFFFF10002040 (rcx 0x0000000110005000 ref)), ok),
  ("V12j", mode32 (ds 0 0x1000207E ref), .gp0),
  ("V12k", mode32 (ds 0 0x1000207F ref), .gp0),
  ("V12l", mode32 (ds 0 0x10005FFF ref), ok),
  ("V12m", mode32 (ds 0x00100000 0xFFFFFFFF (rbx 0x0FF02040 (rcx 0x0FF05000 ref))), ok),
  ("V12n", ds 0x00100000 0 ref, ok)]

/-- 3.7, FLAGS with the outcome without and with SGX_ATTR_CET. -/
def legality : List (Nat × View × View) :=
  let e := err 19 true false false
  [(0x0200, .gp0, .gp0), (0x0208, e, e), (0x0220, e, e), (0x0228, e, e), (0x0210, .gp0, .gp0),
   (0x0218, .gp0, .gp0), (0x0230, .gp0, .gp0), (0x0238, .gp0, .gp0), (0x0100, .gp0, .gp0),
   (0x0110, e, e), (0x0108, .gp0, .gp0), (0x0118, .gp0, .gp0), (0x0130, .gp0, .gp0),
   (0x0410, e, e), (0x0408, .gp0, .gp0), (0x0508, .gp0, e), (0x0608, .gp0, e),
   (0x0510, .gp0, .gp0), (0x0528, .gp0, .gp0), (0x0518, .gp0, .gp0), (0x0008, .gp0, .gp0),
   (0x0308, .gp0, .gp0), (0x0708, .gp0, .gp0), (0xFF10, .gp0, .gp0)]

/-- 3.7 as vectors, and 3.8. -/
def vectors5 : List Vec :=
  legality.flatMap (fun c => [("V13", flags c.1 ref, c.2.1), ("V13 cet", cet (flags c.1 ref), c.2.2)]) ++ [
  ("V13y", flags 0x020A (onT (fun t => { t with r := false }) ref), ok),
  ("V14a", onT (fun t => { t with valid := false }) ref, .pf 0x10005000),
  ("V14b", onT (fun t => { t with blocked := true }) ref, .pf 0x10005000),
  ("V14c", onT (fun t => { t with pt := 3 }) ref, .pf 0x10005000),
  ("V14d", onT (fun t => { t with pt := 0 }) ref, .pf 0x10005000),
  ("V14e", onT (fun t => { t with pt := 7 }) ref, .pf 0x10005000),
  ("V14f", onT (fun t => { t with enclaveSecs := 0x80010000 }) ref, .pf 0x10005000),
  ("V14g", onT (fun t => { t with pt := 5 }) ref, err 19 true false false),
  ("V14h", onT (fun t => { t with pt := 4 }) ref, err 19 true false false),
  ("V15", locked ref, .gp0),
  ("V15a", locked (onT (fun t => { t with valid := false }) ref), .pf 0x10005000),
  ("V15b", locked (flags 0x0209 ref), .gp0),
  ("V15c", locked (flags 0x0200 ref), .gp0)]

/-- Eight bytes FF. -/
def ff8 : List Byte := List.replicate 8 0xFF

/-- 3.9. -/
def vectors6 : List Vec := [
  ("V16a", poke 0x80005008 [1] v3, .gp0),
  ("V16b", poke 0x80005008 [2] v3, ok),
  ("V16c", poke 0x80005018 [2] v3, .gp0),
  ("V16d", poke 0x8000501C [0] v3, .gp0),
  ("V16e", poke 0x80005018 [3] v3, .gp0),
  ("V16f", poke 0x80005018 [1] v3, ok),
  ("V16g", poke 0x80005018 [0, 0, 0, 0x80, 1] v3, .gp0),
  ("V16h", poke 0x80005018 [1, 0, 0, 0, 0, 0, 0, 0x80] v3, ok),
  ("V16i", poke 0x80005029 [0x10] v3, .gp0),
  ("V16j", poke 0x80005000 [1] v3, .gp0),
  ("V16k", cetSs (poke 0x80005050 [8] v3), .gp0),
  ("V16l", poke 0x80005050 [8] v3, ok),
  ("V16m", poke 0x80005058 [1] v3, .gp0),
  ("V16n", poke 0x80005FFF [0xFF] v3, .gp0),
  ("V16o", secs32 v3, ok),
  ("V16p", secs32 (poke 0x80005040 [0, 0x10] v3), .gp0),
  ("V16q", secs32 (poke 0x80005040 [0xFF, 0x1F, 0, 0, 0xFF, 0xFF, 0xFF, 0xFF] v3), ok),
  ("V16r", secs32 (poke 0x80005044 [0, 0] v3), .gp0),
  ("V16s", poke 0x80005040 [0, 0, 0, 0, 0, 0] v3, ok),
  ("V16t", secs32 (poke 0x80005040 [0, 0] v3), .gp0),
  ("V16u", poke 0x80005010 ff8 (poke 0x80005020 ff8 (poke 0x80005030 (ff8 ++ ff8)
    (poke 0x80005048 ff8 v3))), ok),
  ("V16v", poke 0x80005000 (ff8 ++ ff8) (flags 0x0410 (changed 4 ref)), ok)]

/-- 3.10 and 3.11. -/
def vectors7 : List Vec := [
  ("V17a", rbx 0x10007040 (rcx 0x10005800 ref), .pf 0x10007040),
  ("V17b", flags 0x024B (rcx 0x10007000 ref), .gp0),
  ("V17c", flags 0x0200 (rcx 0x10007000 ref), .pf 0x10007000),
  ("V17d", flags 0x0200 (onT (fun t => { t with valid := false }) ref), .gp0),
  ("V17e", untracked (flags 0x0209 ref), err 19 true false false),
  ("V17f", untracked (poke 0x80005000 [1] v3), err 11 false true false),
  ("V17g", poke 0x80005000 [0xFF] (onT (fun t => { t with modified := false }) v3),
    err 19 false false false),
  ("V17h", outside (rbx 1 (rcx 1 ref)), .gp0),
  ("V17i", outside (rbx 0x10007040 ref), .gp0),
  ("V17j", rbx 0x10002020 (onE (fun e => { e with valid := false }) ref), .gp0),
  ("V17k", poke 0x00306040 [0x4B, 0x02] (rbx 0x10006040 ref), .pf 0x10006040),
  ("V18a", onT (fun t => { t with pr := false }) v2, ok),
  ("V18b", flags 0x022B ref, ok),
  ("V18c", flags 0x022B (onT (fun t => { t with pr := true }) ref), ok),
  ("V19", poke 0x80005040 [0x21, 0x02] (rbx 0x10005040 v2), ok),
  ("V19a", poke 0x80005040 [0x0B, 0x02] (rbx 0x10005040 ref), .pf 0x10005040),
  ("V20", rax 0xFFFFFFFF00000005 ref, ok),
  ("V20a", rax 0xFFFFFFFF00000005 (flags 0x0209 ref), err 19 true false false),
  ("V20b", rax 4 ref, .refused (.otherLeaf 4)),
  ("V20c", rax 0x0000000500000000 ref, .refused (.otherLeaf 0)),
  ("V21", flags 0x0209 { ref with rflags := 0x0202 }, err 19 true false false),
  ("V21b", { ref with rflags := 0x0ED7 }, .done 0 0x0602 0x10001003 false false false)]

/-- The names of the vectors a list gets wrong. -/
def failing (l : List Vec) : List String :=
  l.filterMap fun v => if view v.2.1 = v.2.2 then none else some v.1

/-- Sections 3.1 to 3.6: which outcomes the operands and the entries lead to. -/
theorem test_eaccept_operands :
    failing (vectors1 ++ vectors2 ++ vectors3 ++ vectors4) = [] := by decide +kernel

/-- Sections 3.7 to 3.11: legality, the target, the TCS, the order of the tests. -/
theorem test_eaccept_order : failing (vectors5 ++ vectors6 ++ vectors7) = [] := by decide +kernel

/-! ### Witnesses: a state that meets the hypotheses of each obligation -/

/-- The request of REF, and what its two operands lead to. -/
def refF : SecinfoFlags := ⟨true, true, false, true, false, false, 2⟩
def refLE : Located := ⟨0x80002040, refE⟩
def refLT : Located := ⟨0x80005000, refT⟩
/-- The requests of V2 and V3 and the targets they lead to. -/
def v2F : SecinfoFlags := ⟨true, false, false, false, false, true, 2⟩
def v2LT : Located := ⟨0x80005000, { refT with w := false, pending := false, pr := true }⟩
def v3F : SecinfoFlags := ⟨false, false, false, false, true, false, 1⟩
def v3LT : Located :=
  ⟨0x80005000, { refT with r := false, w := false, pt := 1, pending := false, modified := true }⟩

/-- A state passes lines 1 to 8 of R110 with this SECINFO page and these FLAGS. -/
abbrev inFront (s : State) (le : Located) (f : SecinfoFlags) : Prop :=
  s.leafRefusal = none ∧ s.inEnclave = true ∧ s.locateOperand .secinfo = .ok le ∧
  s.secinfoPageOk le.entry = true ∧ secinfoReservedZero s.cfg.secinfo (s.readSecinfo le.pa) = true ∧
  f = secinfoFlags s.cfg.secinfo (s.readSecinfo le.pa)

theorem passes_of {s : State} {le : Located} {f : SecinfoFlags} (h : inFront s le f) :
    s.Admitted ∧ s.inEnclave = true ∧ s.SecinfoPasses le f :=
  ⟨(State.leafRefusal_eq_none _).1 h.1, h.2.1, (State.locateOperand_ok _).1 h.2.2.1,
    (State.secinfoPageOk_iff _).1 h.2.2.2.1, (secinfoReservedZero_iff _ _).1 h.2.2.2.2.1, h.2.2.2.2.2⟩

theorem ready_of {s : State} {le l : Located} {f : SecinfoFlags} (h : inFront s le f)
    (hp : s.pageStage f = .ok l) : s.Ready f l :=
  ⟨(passes_of h).1, h.2.1, ⟨le, (passes_of h).2.2⟩, State.pageStage_ok.1 hp⟩

theorem acceptable_of {s : State} {f : SecinfoFlags} {l : Located} (h : s.Ready f l)
    (h1 : s.requestMatches f l.entry = true) (h2 : s.trackingCorrect l.page = true)
    (h3 : f.pt ≠ s.cfg.pt.tcs ∨ s.tcsOk l.pa l.entry.enclaveSecs = true) : s.Acceptable f l :=
  ⟨h, (State.requestMatches_iff _).1 h1, (State.trackingCorrect_iff _).1 h2,
    fun hp => (State.tcsOk_iff _ _).1 (h3.resolve_left (absurd hp))⟩

/-- AcceptCompletes and every statement about an acceptable request: V1. -/
theorem witness_ref_acceptable : ref.Acceptable refF refLT :=
  acceptable_of (ready_of (le := refLE) (by decide +kernel) (by decide +kernel)) (by decide +kernel)
    (by decide +kernel) (by decide +kernel)

/-- The same, PENDING = MODIFIED = 0: V2. -/
theorem witness_v2_acceptable : v2.Acceptable v2F v2LT :=
  acceptable_of (ready_of (le := refLE) (by decide +kernel) (by decide +kernel)) (by decide +kernel)
    (by decide +kernel) (by decide +kernel)

/-- The same for a TCS: V3. -/
theorem witness_v3_acceptable : v3.Acceptable v3F v3LT :=
  acceptable_of (ready_of (le := refLE) (by decide +kernel) (by decide +kernel)) (by decide +kernel)
    (by decide +kernel) (by decide +kernel)

/-- Every statement whose hypothesis is a completed execution, among them StatusFlagsWrittenAndNotRead,
CompletedExecutionFrame and MarksClearAfterSuccess. -/
theorem witness_ref_completes : ∃ t, exec .encluEaccept ref = .next t ∧ t.flag .zf = false :=
  ⟨ref.completeAccept refLT.page, (exec_encluEaccept ref).trans
    (execEncluEaccept_acceptable witness_ref_acceptable), (completeAccept_completed ref refLT.page).zf⟩

/-- SucceedsExactlyUnderPreconditions, DsIgnoredIn64BitMode, UpperHalfOfRaxIgnored, EaxMustBeReloaded:
their other hypotheses, at the state of the theorem before. -/
theorem witness_ref_parameters :
    ref.cfg.errorsWf ∧ ref.mode64 = true ∧ (0x0000000500000005 : Word).setWidth 32 = ref.eax ∧
    ref.cfg.pageAttributesMismatch.setWidth 32 ≠ (5 : BitVec 32) ∧
    ref.cfg.notTracked.setWidth 32 ≠ (5 : BitVec 32) := by decide +kernel

/-! #### Encoding, launch state, addresses -/

/-- DecodeReadsExactlyTheEncoding, StepRunsTheDecodedInstruction (each clause), PlacedWordIsRun (a pc at
the top of the address space). -/
theorem witness_fetch :
    decode (encode .encluEaccept ++ [0x90]) = .ok (.encluEaccept, [0x90]) ∧
    decode ref.fetch = .ok (.encluEaccept, []) ∧ decode State.reset.fetch = .error .notEnclu ∧
    Memory.wf ({ ref with pc := 0xFFFFFFFFFFFFFFFE } : State).text := by decide +kernel

/-- StepKeepsInvariant. -/
theorem witness_invariant : ref.Inv ∧ ∃ t, step ref = .next t :=
  ⟨by decide +kernel, ref.completeAccept refLT.page, by
    unfold step
    rw [show decode ref.fetch = .ok (.encluEaccept, []) by decide +kernel]
    exact (exec_encluEaccept ref).trans (execEncluEaccept_acceptable witness_ref_acceptable)⟩

/-- RefusedExactlyWithoutLaunchPremises, its second clause. -/
theorem witness_other_leaf : (rax 4 ref).CommonMet ∧
    (rax 4 ref).cfg.sgx2Present = true ∧ (rax 4 ref).eax ≠ 5 :=
  ⟨(State.failing_eq_none _).1 (by decide +kernel), by decide +kernel⟩

/-- P3 and DS (log 34): an unusable DS is refused outside 64-bit mode and plays no part in it; the same
two states meet the premise of DsIgnoredIn64BitMode and of RefusedExactlyWithoutLaunchPremises. -/
theorem witness_unusable_ds :
    let s := { ref with common := { ref.common with dsUsable := false } }
    (s.mode64 = true ∧ s.leafRefusal = none) ∧
    (mode32 s).leafRefusal = some (.commonCondition .dsUsable) := by decide +kernel

/-- LinearAddressByMode, CanonicalWhenHighBitsEqual (both ends), ElrangeTestOnAlignedOperands. -/
theorem witness_addresses : ref.mode64 = true ∧ (mode32 ref).mode64 = false ∧
    canonical 1 0 = true ∧ canonical 1 1 = false ∧ canonical 64 1 = true ∧
    ref.launchWf ∧ (∀ o ∈ [Operand.secinfo, .page], (ref.linearAddress o).toNat % o.size = 0) := by
  decide +kernel

/-- EpcmEntryOfAddress, each clause: inside the EPC, outside it, no translation. -/
theorem witness_locate : ref.translate 0x10005FFF .read = some 0x80005FFF ∧
    ref.locate 0x10005000 = some refLT ∧ ref.locate 0x10006000 = none ∧
    ref.locate 0x10007000 = none := by decide +kernel

/-! #### The faults -/

/-- OutsideEnclaveFaults. -/
theorem witness_outside : (outside ref).Admitted ∧ (outside ref).inEnclave = false :=
  ⟨(State.leafRefusal_eq_none _).1 (by decide +kernel), rfl⟩

/-- The hypotheses every SECINFO statement shares. -/
abbrev admittedInside (s : State) : Prop := s.leafRefusal = none ∧ s.inEnclave = true

theorem admitted_of {s : State} (h : admittedInside s) : s.Admitted ∧ s.inEnclave = true :=
  ⟨(State.leafRefusal_eq_none _).1 h.1, h.2⟩

/-- AddressFormFaults: its four faults, the last two once the SECINFO has passed. Bit 47 alone is the
smallest non-canonical address; the limits are one byte short. -/
theorem witness_address_form :
    (let s := rbx 0x0000800000000000 ref
     admittedInside s ∧ s.mode64 = true ∧
      s.reg .rbx ≠ ((s.reg .rbx).setWidth s.cfg.linearBits).signExtend 64) ∧
    (let s := mode32 (ds 0 0x1000207E ref)
     admittedInside s ∧ s.mode64 = false ∧ s.ds.limit.toNat < (s.reg .rbx).toNat % 2 ^ 32 + 63) ∧
    (let s := rcx 0x0000800000000000 ref
     inFront s refLE refF ∧ s.mode64 = true ∧
      s.reg .rcx ≠ ((s.reg .rcx).setWidth s.cfg.linearBits).signExtend 64) ∧
    (let s := mode32 (ds 0 0x10005FFE ref)
     inFront s refLE refF ∧ s.mode64 = false ∧
      s.ds.limit.toNat < (s.reg .rcx).toNat % 2 ^ 32 + 4095) := by decide +kernel

/-- AlignmentOfOperands and SecinfoAddressFaults: one byte off; one unit below and above the range; no
translation; not in the EPC. -/
theorem witness_secinfo_address :
    (let s := rbx 0x10002041 ref
     admittedInside s ∧ (s.linearAddress .secinfo).toNat % 64 ≠ 0) ∧
    (∀ s ∈ [rbx 0x0FFFFFC0 ref, rbx 0x11000000 ref],
     admittedInside s ∧ ¬ (s.elrange.base.toNat ≤ (s.linearAddress .secinfo).toNat ∧
        (s.linearAddress .secinfo).toNat + 64 ≤ s.elrange.base.toNat + s.elrange.size.toNat)) ∧
    (∀ s ∈ [rbx 0x10FFFFC0 ref, rbx 0x10006040 ref],
     admittedInside s ∧ s.addressForm .secinfo = true ∧ (s.linearAddress .secinfo).toNat % 64 = 0 ∧
      s.elrange.base.toNat ≤ (s.linearAddress .secinfo).toNat ∧
      (s.linearAddress .secinfo).toNat + 64 ≤ s.elrange.base.toNat + s.elrange.size.toNat ∧
      s.locate (s.linearAddress .secinfo) = none) := by decide +kernel

/-- The conditions of SecinfoPageFaults that show in the entry, each alone. -/
def badE : List EpcmEntry := [{ refE with valid := false }, { refE with r := false },
  { refE with pending := true }, { refE with modified := true }, { refE with blocked := true },
  { refE with pt := 1 }, { refE with enclaveSecs := 0x80010000 },
  { refE with enclaveAddress := 0x10003000 }]

/-- SecinfoPageFaults: admitted, inside, the operand located, and one condition at a time. -/
theorem witness_secinfo_page :
    (∀ e ∈ badE, admittedInside (onE (fun _ => e) ref) ∧
      (onE (fun _ => e) ref).locateOperand .secinfo = .ok ⟨0x80002040, e⟩) ∧
    badE.map (fun e => [!e.valid, !e.r, e.pending, e.modified, e.blocked, e.pt != ref.cfg.pt.reg,
        e.enclaveSecs != ref.activeSecs,
        e.enclaveAddress != (ref.linearAddress .secinfo &&& ~~~0xFFF)].idxOf true) =
      [0, 1, 2, 3, 4, 5, 6, 7] ∧
    (admittedInside (literal ref) ∧ (literal ref).locateOperand .secinfo = .ok refLE ∧
      (literal ref).cfg.secinfoAddrCmp = .literal ∧
      refE.enclaveAddress ≠ ((literal ref).linearAddress .secinfo &&& 0xFFF)) := by decide +kernel

/-- SecinfoReservedFaults, at the first and the last reserved bit. -/
theorem witness_secinfo_reserved :
    (let s := flags 0x024B ref
     admittedInside s ∧ s.locateOperand .secinfo = .ok refLE ∧ s.secinfoPageOk refE = true ∧
      ⟨6, 2⟩ ∈ s.cfg.secinfo.reserved ∧ (s.readSecinfo refLE.pa).getLsbD (6 + 0) = true) ∧
    (let s := poke 0x8000207F [0x80] ref
     admittedInside s ∧ s.locateOperand .secinfo = .ok refLE ∧ s.secinfoPageOk refE = true ∧
      ⟨64, 448⟩ ∈ s.cfg.secinfo.reserved ∧ (s.readSecinfo refLE.pa).getLsbD (64 + 447) = true) := by
  decide +kernel

/-- AlignmentOfOperands (last clause) and PageAddressFaults, each clause at the edges of the range. -/
theorem witness_page_address :
    (let s := rcx 0x10005001 ref
     inFront s refLE refF ∧ (s.linearAddress .page).toNat % 4096 ≠ 0) ∧
    (∀ s ∈ [rcx 0x0FFFF000 ref, rcx 0x11000000 ref],
     inFront s refLE refF ∧ ¬ (s.elrange.base.toNat ≤ (s.linearAddress .page).toNat ∧
        (s.linearAddress .page).toNat + 4096 ≤ s.elrange.base.toNat + s.elrange.size.toNat)) ∧
    (∀ s ∈ [rcx 0x10FFF000 ref, rcx 0x10006000 ref],
     inFront s refLE refF ∧ s.addressForm .page = true ∧ (s.linearAddress .page).toNat % 4096 = 0 ∧
      s.elrange.base.toNat ≤ (s.linearAddress .page).toNat ∧
      (s.linearAddress .page).toNat + 4096 ≤ s.elrange.base.toNat + s.elrange.size.toNat ∧
      s.locate (s.linearAddress .page) = none) := by decide +kernel

/-- IllegalRequestFaults, and OtherPageTypesNeverComplete (a request of type 7, and a target of type 7
under a legal and an illegal request). -/
theorem witness_illegal_request :
    (let s := flags 0x0200 ref
     let f := { refF with r := false, w := false, pending := false }
     inFront s refLE f ∧ s.locateOperand .page = .ok refLT ∧
      legalRequest s.cfg.pt s.cfg.sgxAttrCet f = false) ∧
    (let s := flags 0x0708 ref
     let f := { refF with r := false, w := false, pt := 7 }
     inFront s refLE f ∧ s.locateOperand .page = .ok refLT ∧ ¬ Admissible s.cfg.pt f.pt) ∧
    (∀ c ∈ [(0x020B, refF), (0x0200, { refF with r := false, w := false, pending := false })],
     let s := flags c.1 (onT (fun t => { t with pt := 7 }) ref)
     let l := { refLT with entry := { refT with pt := 7 } }
     inFront s refLE c.2 ∧ s.locateOperand .page = .ok l ∧ ¬ Admissible s.cfg.pt l.entry.pt) := by
  decide +kernel

/-- TargetPageFaults: a legal request, the target located, and one condition at a time. -/
theorem witness_target_page :
    (∀ t ∈ [{ refT with valid := false }, { refT with blocked := true }, { refT with pt := 3 },
        { refT with enclaveSecs := 0x80010000 }], let s := onT (fun _ => t) ref
     inFront s refLE refF ∧ s.locateOperand .page = .ok ⟨0x80005000, t⟩ ∧
      Legal s.cfg.pt s.cfg.sgxAttrCet refF ∧
      (t.valid = false ∨ t.blocked = true ∨
        t.pt ∉ [s.cfg.pt.reg, s.cfg.pt.tcs, s.cfg.pt.trim, s.cfg.pt.ssFirst, s.cfg.pt.ssRest] ∨
        t.enclaveSecs ≠ s.activeSecs)) := by decide +kernel

/-- TargetPageFaults, its second clause, for each of the five types, SGX_ATTR_CET 0 and 1. -/
theorem witness_admissible_target :
    (∀ n ∈ [1, 2, 4, 5, 6], ∀ c ∈ [false, true],
     let t := { refT with pt := BitVec.ofNat 8 n }
     let s := if c then cet (onT (fun _ => t) ref) else onT (fun _ => t) ref
     inFront s refLE refF ∧ s.locateOperand .page = .ok ⟨0x80005000, t⟩ ∧ s.cfg.sgxAttrCet = c ∧
      t.valid = true ∧ t.blocked = false ∧
      t.pt ∈ [s.cfg.pt.reg, s.cfg.pt.tcs, s.cfg.pt.trim, s.cfg.pt.ssFirst, s.cfg.pt.ssRest] ∧
      t.enclaveSecs = s.activeSecs) := by decide +kernel

/-- LockedPageFaults. -/
theorem witness_locked : inFront (locked ref) refLE refF ∧
    (locked ref).locateOperand .page = .ok refLT ∧
    Legal (locked ref).cfg.pt (locked ref).cfg.sgxAttrCet refF ∧
    (locked ref).targetPageOk refT = true ∧ refLT.page ∈ (locked ref).inUse := by decide +kernel

/-- TcsContentsFaults: ready, matching, tracked, PT_TCS, and one condition at a time; CSSA = NSSA, and a
CSSA that is greater only as an unsigned number. -/
theorem witness_tcs_contents :
    (∀ s ∈ [poke 0x80005FFF [0xFF] v3, poke 0x80005008 [1] v3, poke 0x80005028 [1] v3,
        poke 0x80005007 [1] v3, poke 0x80005018 [2] v3, poke 0x80005018 [0, 0, 0, 0x80, 1] v3,
        cetSs (poke 0x80005050 [8] v3), secs32 (poke 0x80005040 [0, 0x10] v3),
        secs32 (poke 0x80005044 [0, 0] v3)],
      inFront s refLE v3F ∧ s.pageStage v3F = .ok v3LT ∧ s.requestMatches v3F v3LT.entry = true ∧
      s.trackingCorrect v3LT.page = true ∧ v3F.pt = s.cfg.pt.tcs) ∧
    Memory.read (poke 0x80005FFF [0xFF] v3).mem (v3LT.pa.toNat + 88 + 4007) ≠ 0 ∧
    (poke 0x80005008 [1] v3).tcsField v3LT.pa ⟨8, 8⟩ = 1 ∧
    (poke 0x80005028 [1] v3).tcsField v3LT.pa ⟨40, 8⟩ ≠ 0 ∧
    (poke 0x80005007 [1] v3).tcsField v3LT.pa ⟨0, 8⟩ = 2 ^ 56 ∧
    (poke 0x80005018 [2] v3).tcsField v3LT.pa ⟨24, 4⟩ = v3.tcsField v3LT.pa ⟨28, 4⟩ ∧
    (cetSs (poke 0x80005050 [8] v3)).tcsField v3LT.pa ⟨80, 8⟩ = 8 ∧
    (secs32 (poke 0x80005040 [0, 0x10] v3)).tcsField v3LT.pa ⟨64, 4⟩ % 4096 ≠ 0xFFF := by
  decide +kernel

/-! #### Completion and consequences -/

/-- MismatchCompletes: each of the seven differences alone. -/
theorem witness_mismatch :
    (∀ c ∈ [(0x020B, refF, { refT with enclaveAddress := 0x10009000 }),
        (0x020B, refF, { refT with pending := false }), (0x020B, refF, { refT with modified := true }),
        (0x020A, { refF with r := false }, refT), (0x0209, { refF with w := false }, refT),
        (0x020F, { refF with x := true }, refT), (0x020B, refF, { refT with pt := 4 })],
      let s := flags c.1 (onT (fun _ => c.2.2) ref)
      let t := c.2.2
      inFront s refLE c.2.1 ∧ s.pageStage c.2.1 = .ok ⟨0x80005000, t⟩ ∧
      (t.enclaveAddress ≠ s.linearAddress .page ∨ t.pending ≠ c.2.1.pending ∨
        t.modified ≠ c.2.1.modified ∨ t.r ≠ c.2.1.r ∨ t.w ≠ c.2.1.w ∨ t.x ≠ c.2.1.x ∨
        t.pt ≠ c.2.1.pt)) := by decide +kernel

/-- NotTrackedCompletes. -/
theorem witness_not_tracked : inFront (untracked ref) refLE refF ∧
    (untracked ref).pageStage refF = .ok refLT ∧
    (untracked ref).requestMatches refF refT = true ∧ refLT.page ∉ (untracked ref).tracked := by
  decide +kernel

/-- ShadowStackNeedsCet: V14g, which completes with SGX_PAGE_ATTRIBUTES_MISMATCH. -/
theorem witness_shadow_stack :
    let s := onT (fun t => { t with pt := 5 }) ref
    s.cfg.pt.wf ∧ s.cfg.sgxAttrCet = false ∧ view s = err 19 true false false ∧
    inFront s refLE refF ∧ s.locateOperand .page = .ok ⟨0x80005000, { refT with pt := 5 }⟩ := by
  decide +kernel

/-- V19: the SECINFO in the target page. -/
def v19 : State := poke 0x80005040 [0x21, 0x02] (rbx 0x10005040 v2)

/-- SecinfoInsideTargetPage: V19. -/
theorem witness_secinfo_inside :
    (∃ t, exec .encluEaccept v19 = .next t ∧ t.flag .zf = false) ∧
    v19.locate (v19.linearAddress .secinfo) = some { v2LT with pa := 0x80005040 } ∧
    v19.locate (v19.linearAddress .page) = some v2LT ∧
    ({ v2LT with pa := 0x80005040 } : Located).page = v2LT.page ∧
    v2F = secinfoFlags v19.cfg.secinfo (v19.readSecinfo 0x80005040) :=
  have h : inFront v19 { v2LT with pa := 0x80005040 } v2F := by decide +kernel
  have ha : v19.Acceptable v2F v2LT := acceptable_of (ready_of h (by decide +kernel))
    (by decide +kernel) (by decide +kernel) (by decide +kernel)
  ⟨⟨v19.completeAccept v2LT.page, (exec_encluEaccept v19).trans (execEncluEaccept_acceptable ha),
    (completeAccept_completed v19 v2LT.page).zf⟩, by decide +kernel⟩

/-- UnmatchableMarksMismatch: a page with both marks (V5e), a page with neither under a request that is no
permission restriction (V5d), and a request with no mark. -/
theorem witness_unmatchable_marks :
    (∀ t ∈ [{ refT with modified := true }, { refT with pending := false }],
      let s := onT (fun _ => t) ref
      inFront s refLE refF ∧ s.pageStage refF = .ok ⟨0x80005000, t⟩ ∧
      ((t.pending = true ∧ t.modified = true) ∨ (t.pending = false ∧ t.modified = false ∧
        ¬ (refF.pt = s.cfg.pt.reg ∧ refF.pr = true ∧ refF.pending = false)))) ∧
    (let s := flags 0x0203 ref
     inFront s refLE { refF with pending := false } ∧ s.locateOperand .page = .ok refLT) := by
  decide +kernel

/-- TargetPrNeverRead: the page operand leads to a page, with a success (V2), an error code (V6) and a
fault (V15) after it. -/
theorem witness_target_pr :
    (∀ s ∈ [v2, untracked v2, locked v2], s.locate (s.linearAddress .page) = some v2LT) ∧
    [v2, untracked v2, locked v2].map view = [ok, err 11 false false true, .gp0] := by decide +kernel

/-- SecinfoTestsComeFirst: V7, where no SECINFO passes. -/
theorem witness_secinfo_first : (rbx 0x10002020 ref).Admitted ∧ (rbx 0x10002020 ref).inEnclave = true ∧
    ¬ ∃ le f, (rbx 0x10002020 ref).SecinfoPasses le f :=
  ⟨(State.leafRefusal_eq_none _).1 (by decide +kernel), rfl, fun ⟨_, _, h⟩ =>
    absurd h.operand.aligned (by decide +kernel)⟩

/-- OnlyPagesOfTheRunningEnclave, its last clause: another enclave's page is listed in the EPCM. -/
theorem witness_other_enclave :
    let s := { ref with epcm := ref.epcm ++ [(0x80009000, { refE with enclaveSecs := 0x80010000 })] }
    view s = ok ∧ (lookup 0x80009000 s.epcm).map EpcmEntry.enclaveSecs = some 0x80010000 ∧
    (0x80010000 : Word) ≠ s.activeSecs := by decide +kernel

/-- ReadsOnlyItsOperandsMemory: V3 with a byte that differs at an address of neither operand. -/
theorem witness_other_memory :
    let m := Memory.write v3.mem 0 0xFF
    v3.cfg.tcs.wf ∧ m ≠ v3.mem ∧
    (∀ le, v3.OperandAt .secinfo le → ∀ i < 64,
      Memory.read m (le.pa.toNat + i) = Memory.read v3.mem (le.pa.toNat + i)) ∧
    (∀ f l, v3.Ready f l → f.pt = v3.cfg.pt.tcs → ∀ i < 4096,
      Memory.read m (l.pa.toNat + i) = Memory.read v3.mem (l.pa.toNat + i)) := by
  have hm : Memory.wf v3.mem := by decide +kernel
  have key : ∀ a, 0 < a → Memory.read (Memory.write v3.mem 0 0xFF) a = Memory.read v3.mem a := by
    intro a ha
    rw [Memory.read_write hm, if_neg (by omega)]
  refine ⟨by decide +kernel, by decide +kernel, fun le h i _ => key _ ?_, fun f l h _ i _ => key _ ?_⟩
  · have hle : v3.locateOperand .secinfo = .ok refLE := by decide +kernel
    have e := (State.locateOperand_ok _).2 h
    rw [hle] at e
    cases e
    exact Nat.lt_of_lt_of_le (by decide : 0 < refLE.pa.toNat) (Nat.le_add_right _ _)
  · rw [(witness_v3_acceptable.ready.unique h).2]
    exact Nat.lt_of_lt_of_le (by decide : 0 < v3LT.pa.toNat) (Nat.le_add_right _ _)

end Sys2Proof.Tests
end

section
/-! Proofs of the family 40_enclu_eaccept: the legal requests (R123) and the fault on the others (R124). -/

namespace Sys2Proof.Machine

/-- Every clause of R123 names the request's page type, so a legal request has one of the five types of
R125. -/
theorem Legal.admissible {t : PageTypes} {cet : Bool} {f : SecinfoFlags} (h : Legal t cet f) :
    Admissible t f.pt := by
  rcases h with ⟨hreg, -⟩ | ⟨htcs | htrim, -⟩ | ⟨-, hfirst | hrest, -⟩
  · exact .inl hreg
  · exact .inr (.inl htcs)
  · exact .inr (.inr (.inl htrim))
  · exact .inr (.inr (.inr (.inl hfirst)))
  · exact .inr (.inr (.inr (.inr hrest)))

/-- R124 stands right after the address tests of the page operand, before the entry is looked at. -/
theorem State.pageStage_illegal {s : State} {f : SecinfoFlags} {l : Located}
    (hl : s.OperandAt .page l) (hf : legalRequest s.cfg.pt s.cfg.sgxAttrCet f = false) :
    s.pageStage f = .error s.raiseGP := by
  simp [State.pageStage, (State.locateOperand_ok _).2 hl, hf]

/-- Settles O23: the SECINFO passes, and the page stage stops at the legality test. -/
theorem illegalRequestFaults : Obligations.IllegalRequestFaults := by
  intro s le l f ha hi hs hl hf
  rw [exec_encluEaccept]
  exact execEncluEaccept_page_error ha hi hs (State.pageStage_illegal hl hf)

/-- Settles O22: `legalRequest` is `Legal`, whose clauses are those of R123. -/
theorem legalRequestClauses : Obligations.LegalRequestClauses := by
  intro t f r w x A B C
  refine ⟨?_, ?_, fun _ => rfl, fun hpt cet => ?_⟩
  · simp [legalRequest_iff, Legal, A, B]
  · simp [legalRequest_iff, Legal, A, B, C]
  · rw [← Bool.not_eq_true, legalRequest_iff]
    intro h
    exact hpt (by simpa using Legal.admissible h)

end Sys2Proof.Machine
end

section
/-! Proofs: every step keeps the invariant. -/

namespace Sys2Proof.Machine

/-- A step that completes completed an execution of the one instruction. -/
theorem execEncluEaccept_of_step {s t : State} (h : step s = .next t) :
    execEncluEaccept s = .next t := by
  unfold step at h
  split at h
  · cases h
  · exact h

/-- The invariant asks of the general registers nothing, of pc its width, of RFLAGS bit 1, and of
the EPCM its keys. -/
theorem State.Inv.update {s : State} (h : s.Inv) {regs : Regs} {pc rflags : Word}
    {epcm : List (Nat × EpcmEntry)} (hpc : s.mode64 = false → pc.toNat < 2 ^ 32)
    (hflags : rflags.getLsbD 1 = true) (hkeys : keys epcm = keys s.epcm) :
    ({ s with regs := regs, pc := pc, rflags := rflags, epcm := epcm } : State).Inv := by
  obtain ⟨hmem, htext, hepcm, htrans, hframes, huse, htrack, hsecs, -, -, hlaunch, hcfg⟩ := h
  exact ⟨hmem, htext, hkeys ▸ hepcm, htrans, hframes, huse, htrack, hsecs, hpc, hflags, hlaunch,
    hcfg⟩

/-- pc stays inside the address width (R25). -/
theorem State.pcPlus_lt (s : State) (n : Nat) (h : s.mode64 = false) :
    (s.pcPlus n).toNat < 2 ^ 32 := by
  rw [s.pcPlus_toNat32 n h]
  exact Nat.mod_lt _ (by decide)

/-- A completion writes none but the six status flags, so bit 1 of RFLAGS stays (G6). -/
theorem State.Inv.completionFlags {s : State} (h : s.Inv) (zf : Bool) :
    (clearDoneFlags (writeFlag s.rflags .zf zf)).getLsbD 1 = true := by
  obtain ⟨-, -, -, -, -, -, -, -, -, hflags, -, -⟩ := h
  rw [getLsbD_completionFlags s.rflags zf 1 (fun g => by cases g <;> decide)]
  exact hflags

theorem State.Inv.completeError {s : State} (h : s.Inv) (c : Word) : (s.completeError c).Inv :=
  h.update (s.pcPlus_lt _) (h.completionFlags true) rfl

theorem State.Inv.completeAccept {s : State} (h : s.Inv) (p : Nat) : (s.completeAccept p).Inv :=
  h.update (s.pcPlus_lt _) (h.completionFlags false) (keys_updateAt _ _ _)

/-- Settles O7: a step that completes is one of the three completions, and each
keeps the invariant. -/
theorem stepKeepsInvariant : Obligations.StepKeepsInvariant := by
  intro s t hs hstep
  obtain ⟨f, l, -, ⟨-, rfl⟩ | ⟨-, -, rfl⟩ | ⟨-, rfl⟩⟩ :=
    execEncluEaccept_next (execEncluEaccept_of_step hstep)
  · exact hs.completeError _
  · exact hs.completeError _
  · exact hs.completeAccept _

end Sys2Proof.Machine
end

section
/-! Proofs: the decoder and the encoder, fetch and step, the launch state. -/

namespace Sys2Proof.Machine

/-! ### Encoding -/

/-- A byte of R97 in front is refused by name, whatever follows it. -/
theorem decode_prefixed {b : Byte} (bs : List Byte) (h : isPrefix b = true) :
    decode (b :: bs) = .error (.prefixed b) := by
  simp [decode, h]

/-- The decoder reads what the encoder writes and leaves the rest (R91). -/
theorem decode_encode (i : Instr) (rest : List Byte) :
    decode (encode i ++ rest) = .ok (i, rest) := by
  cases i
  rfl

/-- What the decoder reads is what the encoder writes (R96). -/
theorem eq_encode_of_decode {bs rest : List Byte} {i : Instr} (h : decode bs = .ok (i, rest)) :
    bs = encode i ++ rest := by
  unfold decode at h
  split at h
  · cases h
  split at h
  · cases h
  split at h
  · split at h
    · rename_i hb
      obtain ⟨rfl, rfl, rfl⟩ := hb
      cases h
      rfl
    · cases h
  · cases h

theorem decode_eq_ok_iff (bs : List Byte) (i : Instr) (rest : List Byte) :
    decode bs = .ok (i, rest) ↔ bs = encode i ++ rest :=
  ⟨eq_encode_of_decode, fun h => h ▸ decode_encode i rest⟩

theorem decodeTableWord_eq_some_iff (nbits w : Nat) (i : Instr) :
    decodeTableWord nbits w = some i ↔ ∃ rest, tableBytes nbits w = encode i ++ rest := by
  simp only [← decode_eq_ok_iff, decodeTableWord]
  cases decode (tableBytes nbits w) with
  | error e => simp
  | ok r => simp [Prod.ext_iff]

/-- Settles O2: `decode` inverts `encode` on every byte list, and a byte of R97 in front stops it
first. -/
theorem decodeReadsExactlyTheEncoding : Obligations.DecodeReadsExactlyTheEncoding := by
  refine ⟨fun i => by cases i; rfl, decode_eq_ok_iff, fun b i rest hb => ?_,
    decodeTableWord_eq_some_iff⟩
  have hp : isPrefix b = true := by simpa [isPrefix, or_assoc] using hb
  exact decode_prefixed _ hp

/-- The bytes of the table word of ENCLU (log 3). -/
theorem tableBytes_enclu : tableBytes 24 0x0F01D7 = encode .encluEaccept := by decide

/-- Settles O1: both readings are of the encoding of ENCLU. -/
theorem encluBytesDecode : Obligations.EncluBytesDecode :=
  ⟨decode_encode .encluEaccept [],
    (decodeTableWord_eq_some_iff _ _ _).2 ⟨[], tableBytes_enclu⟩⟩

/-! ### Fetch and step -/

theorem step_eq_exec {s : State} {i : Instr} {rest : List Byte}
    (h : decode s.fetch = .ok (i, rest)) : step s = exec i s := by
  simp [step, h]

theorem step_eq_refused {s : State} {e : DecodeError} (h : decode s.fetch = .error e) :
    step s = .refused (.undecodable e) := by
  simp [step, h]

/-- Settles O3: `step` is `exec` of what `decode` reads at pc. -/
theorem stepRunsTheDecodedInstruction : Obligations.StepRunsTheDecodedInstruction :=
  ⟨fun _ => rfl, fun _ _ _ => step_eq_exec, fun _ _ => step_eq_refused⟩

/-- Fewer than 2^32 bytes on from pc no address comes twice, though pc wraps (R25). -/
theorem State.pcPlus_inj (s : State) {j k : Nat} (hj : j < 2 ^ 32) (hk : k < 2 ^ 32) :
    (s.pcPlus j).toNat = (s.pcPlus k).toNat ↔ j = k := by
  refine ⟨fun h => ?_, fun h => h ▸ rfl⟩
  cases hm : s.mode64 with
  | false =>
    rw [s.pcPlus_toNat32 j hm, s.pcPlus_toNat32 k hm] at h
    omega
  | true =>
    rw [s.pcPlus_64 j hm, s.pcPlus_64 k hm] at h
    simp only [BitVec.toNat_add, BitVec.toNat_ofNat] at h
    omega

theorem State.placeText_wf (s : State) (bs : List Byte) (k : Nat) {m : Memory} (h : Memory.wf m) :
    Memory.wf (s.placeText k m bs) := by
  induction bs generalizing k m with
  | nil => exact h
  | cons b bs ih => exact ih (k + 1) (Memory.write_wf h (s.pcPlus k).isLt b)

/-- A placed byte reads back at its place, and the bytes before the first placed one stay. -/
theorem State.read_placeText (s : State) (bs : List Byte) (k : Nat) {m : Memory} (h : Memory.wf m)
    (hk : k + bs.length ≤ 2 ^ 32) {j : Nat} (hj : j < k + bs.length) :
    Memory.read (s.placeText k m bs) (s.pcPlus j).toNat =
      if j < k then Memory.read m (s.pcPlus j).toNat else bs.getD (j - k) 0 := by
  induction bs generalizing k m with
  | nil =>
    have hjk : j < k := by simpa using hj
    simp [State.placeText, hjk]
  | cons b bs ih =>
    simp only [List.length_cons] at hk hj
    have hw := Memory.write_wf h (s.pcPlus k).isLt b
    rw [State.placeText, ih (k + 1) hw (by omega) (by omega), Memory.read_write h]
    simp only [s.pcPlus_inj (j := j) (k := k) (by omega) (by omega)]
    rcases Nat.lt_trichotomy j k with hlt | rfl | hgt
    · simp [hlt, Nat.lt_succ_of_lt hlt, Nat.ne_of_lt hlt]
    · simp
    · obtain ⟨d, rfl⟩ : ∃ d, j = k + 1 + d := ⟨j - (k + 1), by omega⟩
      have hd : k + 1 + d - k = d + 1 := by omega
      have hge : ¬ k + 1 + d < k + 1 := by omega
      rw [if_neg hge, if_neg (Nat.not_lt.2 (Nat.le_of_lt hgt)), hd, List.getD_cons_succ,
        Nat.add_sub_cancel_left]

/-- The table word of ENCLU placed at pc is what fetch reads there. -/
theorem State.fetch_withFetchWord {s : State} (h : Memory.wf s.text) :
    (s.withFetchWord 24 0x0F01D7).fetch = encode .encluEaccept := by
  have hread : ∀ j < 3, Memory.read (s.withFetchWord 24 0x0F01D7).text (s.pcPlus j).toNat =
      (encode .encluEaccept).getD j 0 := by
    intro j hj
    rw [State.withFetchWord, tableBytes_enclu]
    have hplaced := s.read_placeText (encode .encluEaccept) 0 h (by decide)
      (by simpa [encode] using hj)
    simpa using hplaced
  calc (s.withFetchWord 24 0x0F01D7).fetch
      = (List.range 3).map fun j => (encode .encluEaccept).getD j 0 :=
        List.map_congr_left fun j hj => hread j (List.mem_range.1 hj)
    _ = encode .encluEaccept := rfl

/-- Settles O4: fetch reads back the placed bytes, and they decode to ENCLU. -/
theorem placedWordIsRun : Obligations.PlacedWordIsRun := by
  intro s h
  have hdec := decode_encode .encluEaccept []
  rw [List.append_nil, ← State.fetch_withFetchWord h] at hdec
  exact step_eq_exec hdec

/-! ### Launch premises and the launch state -/

theorem execEncluEaccept_refused_iff (s : State) :
    (∃ r, execEncluEaccept s = .refused r) ↔ ¬ s.Admitted := by
  rw [← State.leafRefusal_eq_none]
  unfold execEncluEaccept
  cases s.leafRefusal with
  | some r => simp
  | none => cases s.eaccept <;> simp

/-- With P3 and P4 met, EAX alone decides, and another value is another leaf (P2, R95). -/
theorem execEncluEaccept_otherLeaf {s : State} (hc : s.CommonMet) (hx : s.cfg.sgx2Present = true)
    (ha : s.eax ≠ 5) : execEncluEaccept s = .refused (.otherLeaf s.eax) := by
  have hr : s.leafRefusal = some (.otherLeaf s.eax) := by
    unfold State.leafRefusal
    rw [(State.failing_eq_none s).2 hc]
    simp only [hx, Bool.not_true, Bool.false_eq_true, if_false, if_pos ha]
  simp [execEncluEaccept, hr]

/-- Settles O8: the launch premises are what `leafRefusal` tests. -/
theorem refusedExactlyWithoutLaunchPremises : Obligations.RefusedExactlyWithoutLaunchPremises :=
  ⟨execEncluEaccept_refused_iff, fun _ => execEncluEaccept_otherLeaf⟩

/-- R111: the enclave-mode test is the first. -/
theorem execEncluEaccept_outside {s : State} (ha : s.Admitted) (hi : s.inEnclave = false) :
    execEncluEaccept s = .fault s.raiseGP := by
  simp [execEncluEaccept, State.eaccept, (State.leafRefusal_eq_none s).2 ha, hi]

/-- Settles O16. -/
theorem outsideEnclaveFaults : Obligations.OutsideEnclaveFaults :=
  fun _ => execEncluEaccept_outside

theorem State.reset_inv : State.reset.Inv := by decide

theorem State.reset_admitted : State.reset.Admitted :=
  ⟨by decide, ⟨by decide, fun _ => rfl⟩, rfl⟩

/-- Settles O5: the launch state is a literal, and each condition computes. -/
theorem launchStateMeetsInvariant : Obligations.LaunchStateMeetsInvariant :=
  ⟨State.reset_inv, State.reset_admitted⟩

/-- Loading a word leaves the launch premises: they do not speak of the program text (log 32). -/
theorem State.Admitted.withFetchWord {s : State} (h : s.Admitted) (n w : Nat) :
    (s.withFetchWord n w).Admitted :=
  ⟨h.eax, ⟨h.common.processor, h.common.ds⟩, h.sgx2⟩

/-- Settles O6: the placed word is run, and the launch state is outside any enclave. -/
theorem launchStateEncluFaultsOutsideEnclave :
    Obligations.LaunchStateEncluFaultsOutsideEnclave := by
  obtain ⟨-, htext, -⟩ := State.reset_inv
  exact (placedWordIsRun State.reset htext).trans
    (outsideEnclaveFaults _ (State.reset_admitted.withFetchWord _ _) rfl)

end Sys2Proof.Machine
end

section
/-! Proofs: address formation, and the structures read from memory. -/

namespace Sys2Proof.Machine

variable {s : State}

/-! ### Effective and linear addresses -/

theorem State.effectiveAddress_64 (o : Operand) (h : s.mode64 = true) :
    s.effectiveAddress o = s.reg o.reg := by
  simp [State.effectiveAddress, h]

theorem State.linearAddress_64 (o : Operand) (h : s.mode64 = true) :
    s.linearAddress o = s.reg o.reg := by
  simp [State.linearAddress, State.effectiveAddress, h]

theorem State.effectiveAddress_32 (o : Operand) (h : s.mode64 = false) :
    (s.effectiveAddress o).toNat = (s.reg o.reg).toNat % 2 ^ 32 := by
  simp only [State.effectiveAddress, h, Bool.false_eq_true, if_false, BitVec.toNat_setWidth]
  omega

theorem State.linearAddress_32 (o : Operand) (h : s.mode64 = false) :
    (s.linearAddress o).toNat =
      (s.ds.base.toNat % 2 ^ 32 + (s.reg o.reg).toNat % 2 ^ 32) % 2 ^ 32 := by
  simp only [State.linearAddress, h, Bool.false_eq_true, if_false, BitVec.toNat_setWidth,
    BitVec.toNat_add, State.effectiveAddress_32 o h]
  omega

/-- Settles O9: by mode, each operand through its register. -/
theorem linearAddressByMode : Obligations.LinearAddressByMode := by
  refine fun s => ⟨fun h => ?_, fun h => ?_⟩
  · exact ⟨s.effectiveAddress_64 .secinfo h, s.effectiveAddress_64 .page h,
      s.linearAddress_64 .secinfo h, s.linearAddress_64 .page h⟩
  · exact ⟨s.effectiveAddress_32 .secinfo h, s.effectiveAddress_32 .page h,
      s.linearAddress_32 .secinfo h, s.linearAddress_32 .page h⟩

/-! ### The form of an address -/

/-- Settles O10: bit `i` of the sign-extension is bit `i` below LINEAR_BITS and its top bit
above. -/
theorem canonicalWhenHighBitsEqual : Obligations.CanonicalWhenHighBitsEqual := by
  intro n a hn _
  have hbit : ∀ i < 64, ((a.setWidth n).signExtend 64).getLsbD i =
      if i < n then a.getLsbD i else a.getLsbD (n - 1) := by
    intro i hi
    have htop : n - 1 < n := by omega
    rw [BitVec.getLsbD_signExtend, BitVec.msb_eq_getLsbD_last]
    by_cases hin : i < n <;> simp [hi, hin, htop]
  simp only [canonical, beq_iff_eq]
  constructor
  · intro h i hlo hi
    have hi' := hbit i hi
    rw [h] at hi'
    by_cases hin : i < n
    · rw [show i = n - 1 by omega]
    · rwa [if_neg hin] at hi'
  · intro h
    refine BitVec.eq_of_getLsbD_eq fun i hi => ?_
    rw [hbit i hi]
    split
    · rfl
    · exact (h i (by omega) hi).symm

theorem State.addressForm_64 (o : Operand) (h : s.mode64 = true) :
    s.addressForm o = canonical s.cfg.linearBits (s.reg o.reg) := by
  simp [State.addressForm, h, s.linearAddress_64 o h]

theorem State.addressForm_iff (o : Operand) : s.addressForm o = true ↔
    (s.mode64 = true ∧ s.reg o.reg = ((s.reg o.reg).setWidth s.cfg.linearBits).signExtend 64) ∨
    (s.mode64 = false ∧ (s.reg o.reg).toNat % 2 ^ 32 + (o.size - 1) ≤ s.ds.limit.toNat) := by
  cases h : s.mode64 with
  | true => simp [s.addressForm_64 o h, canonical, eq_comm (a := s.reg o.reg)]
  | false => simp [State.addressForm, h, s.effectiveAddress_32 o h]

/-! ### CR_ELRANGE and alignment -/

theorem withinElrange_iff (e : Elrange) (a : Word) (n : Nat) : withinElrange e a n = true ↔
    e.base.toNat ≤ a.toNat ∧ a.toNat + n ≤ e.base.toNat + e.size.toNat := by
  simp [withinElrange]

/-- Both ends of CR_ELRANGE are page aligned (P5), so an aligned operand that begins inside it ends
inside it. -/
theorem State.inRange_iff_of_aligned (o : Operand) (hl : s.launchWf)
    (ha : (s.linearAddress o).toNat % o.size = 0) :
    s.inRange o = true ↔ s.elrange.base.toNat ≤ (s.linearAddress o).toNat ∧
      (s.linearAddress o).toNat < s.elrange.base.toNat + s.elrange.size.toNat := by
  obtain ⟨hbase, hsize, -, -⟩ := hl
  rw [State.inRange_iff]
  cases o <;> simp only [Operand.size] at ha ⊢ <;> omega

/-- Settles O11. -/
theorem elrangeTestOnAlignedOperands : Obligations.ElrangeTestOnAlignedOperands :=
  ⟨withinElrange_iff, fun _ => State.inRange_iff_of_aligned⟩

/-- A 64-byte aligned block crosses no page boundary. -/
theorem pageBase_add_of_aligned {a : Word} (ha : a.toNat % 64 = 0) {i : Nat} (hi : i < 64) :
    pageBase (a + BitVec.ofNat 64 i) = pageBase a := by
  apply BitVec.eq_of_toNat_eq
  have hlt := a.isLt
  rw [pageBase_toNat, pageBase_toNat, BitVec.toNat_add, BitVec.toNat_ofNat]
  omega

theorem pageBase_of_aligned {a : Word} (ha : a.toNat % 4096 = 0) : pageBase a = a := by
  apply BitVec.eq_of_toNat_eq
  rw [pageBase_toNat]
  omega

/-! ### Translation and the EPCM -/

theorem lookup_eq_none_iff {α : Type} (k : Nat) (l : List (Nat × α)) :
    lookup k l = none ↔ k ∉ keys l := by
  induction l with
  | nil => simp [lookup, keys]
  | cons c t ih =>
    by_cases h : c.1 = k
    · simp [lookup, keys, h]
    · simpa [lookup, keys, h, Ne.symm h] using ih

/-- The page base keeps none of the low 12 bits, the offset all of them. -/
theorem extractLsb_page_offset (frame la : Word) :
    (pageBase frame ||| pageOffset la).extractLsb 11 0 = la.extractLsb 11 0 := by
  have hlow : ∀ i < 12, (0xFFF : Word).getLsbD i = true := by decide
  refine BitVec.eq_of_getLsbD_eq fun i hi => ?_
  have hi' : i < 12 := hi
  simp only [pageBase, pageOffset, BitVec.getLsbD_extractLsb, BitVec.getLsbD_or, BitVec.getLsbD_and,
    BitVec.getLsbD_not, Nat.zero_add, hlow i hi']
  simp

theorem State.translate_offset {la pa : Word} (h : s.translate la .read = some pa) :
    pa.extractLsb 11 0 = la.extractLsb 11 0 := by
  obtain ⟨frame, -, rfl⟩ := Option.map_eq_some_iff.1 h
  exact extractLsb_page_offset frame la

theorem State.locate_eq_some_iff (la : Word) (l : Located) : s.locate la = some l ↔
    s.translate la .read = some l.pa ∧ lookup (pageBase l.pa).toNat s.epcm = some l.entry := by
  obtain ⟨pa, e⟩ := l
  unfold State.locate
  cases s.translate la .read with
  | none => simp
  | some pa' =>
    constructor
    · intro h
      obtain ⟨e', he, heq⟩ := Option.map_eq_some_iff.1 h
      cases heq
      exact ⟨rfl, he⟩
    · rintro ⟨hpa, he⟩
      cases hpa
      exact Option.map_eq_some_iff.2 ⟨e, he, rfl⟩

theorem State.locate_eq_none_iff (la : Word) : s.locate la = none ↔
    ∀ pa, s.translate la .read = some pa → (pageBase pa).toNat ∉ keys s.epcm := by
  unfold State.locate
  cases s.translate la .read with
  | none => simp
  | some pa => simp [lookup_eq_none_iff]

/-- Settles O13. -/
theorem epcmEntryOfAddress : Obligations.EpcmEntryOfAddress :=
  ⟨fun _ _ _ => State.translate_offset, fun _ => State.locate_eq_some_iff,
    fun _ => State.locate_eq_none_iff⟩

/-! ### The structures in memory -/

/-- Settles O14: SECINFO and the TCS fields are little-endian reads. -/
theorem structuresReadLittleEndian : Obligations.StructuresReadLittleEndian := by
  refine ⟨fun s pa i hi => ?_, fun s pa f i hi => Memory.testBit_readLE _ _ _ _ hi,
    fun s pa f => ?_⟩
  · rw [State.readSecinfo, BitVec.getLsbD_ofNat, Memory.testBit_readLE _ _ _ _ hi]
    simp [hi]
  · rw [Nat.pow_mul]
    exact Memory.readLE_lt _ _ _

/-- Settles O15: the three reserved ranges are bits 6 and 7, 16 to 63 and 64 to 511. -/
theorem defaultSecinfoLayoutBits : Obligations.DefaultSecinfoLayoutBits := by
  refine fun v => ⟨rfl, ?_⟩
  rw [secinfoReservedZero_iff]
  constructor
  · intro h i hi hres
    have hlow := h ⟨6, 2⟩ (by decide) (i - 6)
    have hflags := h ⟨16, 48⟩ (by decide) (i - 16)
    have hrest := h ⟨64, 448⟩ (by decide) (i - 64)
    grind
  · intro h r hr i hi
    simp only [defaultSecinfoLayout, List.mem_cons, List.not_mem_nil, or_false] at hr
    rcases hr with rfl | rfl | rfl <;> simp only at hi ⊢ <;> exact h _ (by omega) (by omega)

end Sys2Proof.Machine
end

section
/-! Proofs: where each stage of EACCEPT stops and with which fault, and the faults of the
instruction. -/

namespace Sys2Proof.Machine

variable {s : State} {f : SecinfoFlags} {l le : Located} {e : Fault}

/-! ### Each stage stops exactly at its sites -/

/-- R112 to R115 and R119 to R122: the four address tests of an operand, in order. -/
theorem State.locateOperand_error_iff (o : Operand) : s.locateOperand o = .error e ↔
    (e = s.raiseGP ∧ (s.addressForm o = false ∨ (s.linearAddress o).toNat % o.size ≠ 0 ∨
      s.inRange o = false)) ∨
    (e = s.raisePF o.resolveSite (s.linearAddress o) ∧ s.addressForm o = true ∧
      (s.linearAddress o).toNat % o.size = 0 ∧ s.inRange o = true ∧
      s.locate (s.linearAddress o) = none) := by
  constructor
  · intro h
    by_cases hgp : s.addressForm o = false ∨ (s.linearAddress o).toNat % o.size ≠ 0 ∨
        s.inRange o = false
    · rw [State.locateOperand_gp o hgp] at h
      exact .inl ⟨by cases h; rfl, hgp⟩
    · obtain ⟨hform, halign, hrange⟩ : s.addressForm o = true ∧
          (s.linearAddress o).toNat % o.size = 0 ∧ s.inRange o = true := by simpa using hgp
      obtain ⟨hlow, hhigh⟩ := (State.inRange_iff o).1 hrange
      cases hloc : s.locate (s.linearAddress o) with
      | none =>
        rw [State.locateOperand_pf o hform halign hrange hloc] at h
        exact .inr ⟨by cases h; rfl, hform, halign, hrange, rfl⟩
      | some l =>
        rw [(State.locateOperand_ok o).2 ⟨hform, halign, hlow, hhigh, hloc⟩] at h
        cases h
  · rintro (⟨rfl, hgp⟩ | ⟨rfl, hform, halign, hrange, hloc⟩)
    · exact State.locateOperand_gp o hgp
    · exact State.locateOperand_pf o hform halign hrange hloc

theorem State.secinfoPageOk_eq_false_iff (t : EpcmEntry) :
    s.secinfoPageOk t = false ↔ ¬ s.SecinfoPageGood t := by
  rw [← Bool.not_eq_true, State.secinfoPageOk_iff]

theorem State.targetPageOk_eq_false_iff (t : EpcmEntry) :
    s.targetPageOk t = false ↔ ¬ s.TargetGood t := by
  rw [← Bool.not_eq_true, State.targetPageOk_iff]

theorem legalRequest_eq_false_iff (y : PageTypes) (cet : Bool) :
    legalRequest y cet f = false ↔ ¬ Legal y cet f := by
  rw [← Bool.not_eq_true, legalRequest_iff]

theorem secinfoReservedZero_eq_false_iff (y : SecinfoLayout) (v : BitVec 512) :
    secinfoReservedZero y v = false ↔
      ∃ r ∈ y.reserved, ∃ i < r.len, v.getLsbD (r.lo + i) = true := by
  rw [← Bool.not_eq_true, secinfoReservedZero_iff]
  simp

/-- R112 to R118: an address test fails, or the page is not acceptable, or a reserved bit is 1. -/
theorem State.secinfoStage_error_iff : s.secinfoStage = .error e ↔
    s.locateOperand .secinfo = .error e ∨
    (∃ le, s.OperandAt .secinfo le ∧ ¬ s.SecinfoPageGood le.entry ∧
      e = s.raisePF .secinfoAttributes (s.linearAddress .secinfo)) ∨
    (∃ le, s.OperandAt .secinfo le ∧ s.SecinfoPageGood le.entry ∧
      (∃ r ∈ s.cfg.secinfo.reserved, ∃ i < r.len,
        (s.readSecinfo le.pa).getLsbD (r.lo + i) = true) ∧ e = s.raiseGP) := by
  simp only [← State.locateOperand_ok, ← State.secinfoPageOk_iff,
    ← secinfoReservedZero_eq_false_iff]
  unfold State.secinfoStage
  cases s.locateOperand .secinfo with
  | error e' => simp
  | ok le =>
    cases hp : s.secinfoPageOk le.entry <;>
      cases hr : secinfoReservedZero s.cfg.secinfo (s.readSecinfo le.pa) <;>
      simp [hp, hr, eq_comm (a := e)]

/-- R119 to R128: an address test fails, the request is not legal, the target is not acceptable, or
another thread holds it; the re-check of R128 never fires. -/
theorem State.pageStage_error_iff : s.pageStage f = .error e ↔
    s.locateOperand .page = .error e ∨
    (∃ l, s.OperandAt .page l ∧ ¬ Legal s.cfg.pt s.cfg.sgxAttrCet f ∧ e = s.raiseGP) ∨
    (∃ l, s.OperandAt .page l ∧ Legal s.cfg.pt s.cfg.sgxAttrCet f ∧ ¬ s.TargetGood l.entry ∧
      e = s.raisePF .pageAttributes (s.linearAddress .page)) ∨
    (∃ l, s.OperandAt .page l ∧ Legal s.cfg.pt s.cfg.sgxAttrCet f ∧ s.TargetGood l.entry ∧
      l.page ∈ s.inUse ∧ e = s.raiseGP) := by
  simp only [← State.locateOperand_ok, ← legalRequest_iff, ← State.targetPageOk_iff,
    ← State.pageInUse_iff]
  unfold State.pageStage
  cases s.locateOperand .page with
  | error e' => simp
  | ok l =>
    cases hf : legalRequest s.cfg.pt s.cfg.sgxAttrCet f with
    | false => simp [eq_comm (a := e)]
    | true =>
      cases ht : s.targetPageOk l.entry with
      | false => simp [ht, eq_comm (a := e)]
      | true =>
        cases hu : s.pageInUse l.page <;>
          simp [ht, hu, State.recheckOk_of_targetPageOk ht, eq_comm (a := e)]

/-- R133 to R138: of lines 17 to 24 only the TCS tests can fault. -/
theorem State.acceptStage_error_iff : s.acceptStage f l = .error e ↔
    s.Matches f l.entry ∧ l.page ∈ s.tracked ∧ f.pt = s.cfg.pt.tcs ∧
      ¬ s.TcsFresh l.pa l.entry.enclaveSecs ∧ e = s.raiseGP := by
  rcases State.acceptStage_cases s f l with ⟨hm, ha⟩ | ⟨hm, hk, ha⟩ | ⟨hm, hk, hp, hc, ha⟩ |
    ⟨hm, hk, hc, ha⟩ <;> rw [ha]
  · simp [hm]
  · simp [hk]
  · simp [hm, hk, hp, hc, eq_comm (a := e)]
  · simp only [reduceCtorEq, false_iff]
    rintro ⟨-, -, hp, hn, -⟩
    exact hn (hc hp)

/-! ### The faults of the instruction -/

/-- A fault of the TCS tests is the fault of the execution. -/
theorem execEncluEaccept_accept_error (h : s.Ready f l) (he : s.acceptStage f l = .error e) :
    execEncluEaccept s = .fault e := by
  rw [execEncluEaccept_ready h, he]

/-- Under the launch premises an execution faults exactly as its stages do, taken in order. -/
theorem execEncluEaccept_fault_iff (ha : s.Admitted) : execEncluEaccept s = .fault e ↔
    (s.inEnclave = false ∧ e = s.raiseGP) ∨
    (s.inEnclave = true ∧ (s.secinfoStage = .error e ∨
      ∃ le f, s.SecinfoPasses le f ∧ (s.pageStage f = .error e ∨
        ∃ l, s.PagePasses f l ∧ s.acceptStage f l = .error e))) := by
  constructor
  · intro h
    rcases execEncluEaccept_cases s with ⟨hna, -⟩ | ⟨-, hi, hx⟩ | ⟨e', -, hi, he, hx⟩ |
      ⟨f, e', -, hi, ⟨le, hs⟩, he, hx⟩ | ⟨f, l, ⟨-, hi, ⟨le, hs⟩, hp⟩, hx⟩
    · exact absurd ha hna
    · rw [hx] at h; cases h; exact .inl ⟨hi, rfl⟩
    · rw [hx] at h; cases h; exact .inr ⟨hi, .inl he⟩
    · rw [hx] at h; cases h; exact .inr ⟨hi, .inr ⟨le, f, hs, .inl he⟩⟩
    · rw [hx] at h
      refine .inr ⟨hi, .inr ⟨le, f, hs, .inr ⟨l, hp, ?_⟩⟩⟩
      cases hacc : s.acceptStage f l <;> rw [hacc] at h <;> cases h
      rfl
  · rintro (⟨hi, rfl⟩ | ⟨hi, he | ⟨le, f, hs, he | ⟨l, hp, he⟩⟩⟩)
    · exact execEncluEaccept_outside ha hi
    · exact execEncluEaccept_secinfo_error ha hi he
    · exact execEncluEaccept_page_error ha hi hs he
    · exact execEncluEaccept_accept_error ⟨ha, hi, ⟨le, hs⟩, hp⟩ he

/-- A failed address test of the SECINFO operand is the fault of the execution. -/
theorem execEncluEaccept_secinfo_address_error (ha : s.Admitted) (hi : s.inEnclave = true)
    (he : s.locateOperand .secinfo = .error e) : execEncluEaccept s = .fault e :=
  execEncluEaccept_secinfo_error ha hi (State.secinfoStage_error_iff.2 (.inl he))

/-- Once the SECINFO has passed, so is a failed address test of the page operand. -/
theorem execEncluEaccept_page_address_error (ha : s.Admitted) (hi : s.inEnclave = true)
    (hs : s.SecinfoPasses le f) (he : s.locateOperand .page = .error e) :
    execEncluEaccept s = .fault e :=
  execEncluEaccept_page_error ha hi hs (State.pageStage_error_iff.2 (.inl he))

theorem State.inRange_eq_false_iff (o : Operand) : s.inRange o = false ↔
    ¬ (s.elrange.base.toNat ≤ (s.linearAddress o).toNat ∧
      (s.linearAddress o).toNat + o.size ≤ s.elrange.base.toNat + s.elrange.size.toNat) := by
  rw [← Bool.not_eq_true, State.inRange_iff]

/-- In 64-bit mode a register that is no sign-extension has no good form (R62). -/
theorem State.addressForm_false_64 (o : Operand) (hm : s.mode64 = true)
    (h : s.reg o.reg ≠ ((s.reg o.reg).setWidth s.cfg.linearBits).signExtend 64) :
    s.addressForm o = false := by
  rw [← Bool.not_eq_true, State.addressForm_iff]
  simp [hm, h]

/-- Outside it an operand past the DS limit has no good form (R63). -/
theorem State.addressForm_false_32 (o : Operand) (hm : s.mode64 = false)
    (h : s.ds.limit.toNat < (s.reg o.reg).toNat % 2 ^ 32 + (o.size - 1)) :
    s.addressForm o = false := by
  rw [← Bool.not_eq_true, State.addressForm_iff]
  simpa [hm] using h

/-- Settles O17: the form test is the first of each operand's address tests. -/
theorem addressFormFaults : Obligations.AddressFormFaults := by
  refine ⟨fun s => ⟨State.addressForm_iff .secinfo, State.addressForm_iff .page⟩,
    fun s ha hi => ?_⟩
  have hsec (h : s.addressForm .secinfo = false) : execEncluEaccept s = .fault (.gp 0 s) :=
    execEncluEaccept_secinfo_address_error ha hi (State.locateOperand_gp _ (.inl h))
  have hpage (le f) (hs : s.SecinfoPasses le f) (h : s.addressForm .page = false) :
      execEncluEaccept s = .fault (.gp 0 s) :=
    execEncluEaccept_page_address_error ha hi hs (State.locateOperand_gp _ (.inl h))
  exact ⟨fun hm h => hsec (State.addressForm_false_64 .secinfo hm h),
    fun hm h => hsec (State.addressForm_false_32 .secinfo hm h),
    fun le f hs hm h => hpage le f hs (State.addressForm_false_64 .page hm h),
    fun le f hs hm h => hpage le f hs (State.addressForm_false_32 .page hm h)⟩

/-- Settles O18: the alignment, range and EPC tests of the SECINFO operand. -/
theorem secinfoAddressFaults : Obligations.SecinfoAddressFaults := by
  refine fun s ha hi => ⟨fun h => ?_, fun h => ?_, fun hform halign hlow hhigh hloc => ?_⟩ <;>
    refine execEncluEaccept_secinfo_address_error ha hi ?_
  · exact State.locateOperand_gp _ (.inr (.inl h))
  · exact State.locateOperand_gp _ (.inr (.inr ((State.inRange_eq_false_iff .secinfo).2 h)))
  · exact State.locateOperand_pf .secinfo hform halign
      ((State.inRange_iff .secinfo).2 ⟨hlow, hhigh⟩) hloc

/-- Settles O21: the same tests of the page operand, reached once the SECINFO has passed. -/
theorem pageAddressFaults : Obligations.PageAddressFaults := by
  refine fun s le f ha hi hs => ⟨fun h => ?_, fun h => ?_,
    fun hform halign hlow hhigh hloc => ?_⟩ <;>
    refine execEncluEaccept_page_address_error ha hi hs ?_
  · exact State.locateOperand_gp _ (.inr (.inl h))
  · exact State.locateOperand_gp _ (.inr (.inr ((State.inRange_eq_false_iff .page).2 h)))
  · exact State.locateOperand_pf .page hform halign ((State.inRange_iff .page).2 ⟨hlow, hhigh⟩) hloc

/-- Settles O12: aligned operands by arithmetic on addresses, misaligned ones by the alignment
test. -/
theorem alignmentOfOperands : Obligations.AlignmentOfOperands :=
  ⟨fun _ h _ hi => pageBase_add_of_aligned h hi, fun _ h => pageBase_of_aligned h,
    fun s ha hi => (secinfoAddressFaults s ha hi).1,
    fun s le f ha hi hs => (pageAddressFaults s le f ha hi hs).1⟩

theorem setWidth_setWidth_eq_pageOffset (a : Word) :
    (a.setWidth 12).setWidth 64 = pageOffset a := by
  apply BitVec.eq_of_toNat_eq
  have hmask : (0xFFF : Word).toNat = 2 ^ 12 - 1 := rfl
  rw [pageOffset, BitVec.toNat_and, hmask, Nat.and_two_pow_sub_one_eq_mod]
  simp only [BitVec.toNat_setWidth]
  omega

/-- The eighth condition of R116 by the reading of C2. -/
theorem State.SecinfoPageGood.address_eq {t : EpcmEntry} (h : s.SecinfoPageGood t) :
    (s.cfg.secinfoAddrCmp = .page → t.enclaveAddress = s.linearAddress .secinfo &&& ~~~0xFFF) ∧
    (s.cfg.secinfoAddrCmp = .literal → t.enclaveAddress = s.linearAddress .secinfo &&& 0xFFF) := by
  have haddr := h.address
  constructor <;> intro hc <;> rw [hc] at haddr
  · exact haddr
  · exact haddr.trans (setWidth_setWidth_eq_pageOffset _)

/-- Settles O19: each of the conditions denies that the SECINFO page is good. -/
theorem secinfoPageFaults : Obligations.SecinfoPageFaults := by
  intro s l ha hi hl hbad
  refine execEncluEaccept_secinfo_error ha hi
    (State.secinfoStage_error_iff.2 (.inr (.inl ⟨l, hl, fun hg => ?_, rfl⟩)))
  obtain ⟨hpage, hliteral⟩ := hg.address_eq
  rcases hbad with h | h | h | h | h | h | h | ⟨hc, h⟩ | ⟨hc, h⟩
  · simp [hg.valid] at h
  · simp [hg.readable] at h
  · simp [hg.notPending] at h
  · simp [hg.notModified] at h
  · simp [hg.notBlocked] at h
  · exact h hg.type
  · exact h hg.owner
  · exact h (hpage hc)
  · exact h (hliteral hc)

/-- Settles O20: the reserved-bit test is the last of the SECINFO stage. -/
theorem secinfoReservedFaults : Obligations.SecinfoReservedFaults :=
  fun _ l r i ha hi hl hg hr hlen hbit => execEncluEaccept_secinfo_error ha hi
    (State.secinfoStage_error_iff.2 (.inr (.inr ⟨l, hl, hg, ⟨r, hr, i, hlen, hbit⟩, rfl⟩)))

/-- Under a legal request a target that is not good raises #PF at LA_PAGE (R125). -/
theorem execEncluEaccept_badTarget (ha : s.Admitted) (hi : s.inEnclave = true)
    (hs : s.SecinfoPasses le f) (hl : s.OperandAt .page l)
    (hf : Legal s.cfg.pt s.cfg.sgxAttrCet f) (ht : ¬ s.TargetGood l.entry) :
    execEncluEaccept s = .fault (s.raisePF .pageAttributes (s.linearAddress .page)) :=
  execEncluEaccept_page_error ha hi hs
    (State.pageStage_error_iff.2 (.inr (.inr (.inl ⟨l, hl, hf, ht, rfl⟩))))

theorem State.OperandAt.unique {o : Operand} {l' : Located} (h : s.OperandAt o l)
    (h' : s.OperandAt o l') : l' = l :=
  Option.some.inj (h'.resolves.symm.trans h.resolves)

theorem State.SecinfoPasses.unique {le' : Located} {f' : SecinfoFlags} (h : s.SecinfoPasses le f)
    (h' : s.SecinfoPasses le' f') : le' = le ∧ f' = f := by
  obtain rfl := h.operand.unique h'.operand
  exact ⟨rfl, h'.flags.trans h.flags.symm⟩

/-- With both operands located, the SECINFO passed and the target good, #PF has no site left. -/
theorem execEncluEaccept_ne_pf (ha : s.Admitted) (hs : s.SecinfoPasses le f)
    (hl : s.OperandAt .page l) (ht : s.TargetGood l.entry) (c : BitVec 32) (la : Word)
    (s' : State) : execEncluEaccept s ≠ .fault (.pf c la s') := by
  rw [ne_eq, execEncluEaccept_fault_iff ha]
  rintro (⟨-, h⟩ | ⟨-, h | ⟨le', f', hs', h | ⟨l', -, h⟩⟩⟩)
  · cases h
  · rw [State.secinfoStage_ok.2 ⟨le, hs⟩] at h
    cases h
  · rw [State.pageStage_error_iff, (State.locateOperand_ok _).2 hl] at h
    rcases h with h | ⟨_, -, -, h⟩ | ⟨l', hl', -, hn, -⟩ | ⟨_, -, -, -, -, h⟩
    · cases h
    · cases h
    · exact hn (hl.unique hl' ▸ ht)
    · cases h
  · obtain ⟨-, -, -, -, h⟩ := State.acceptStage_error_iff.1 h
    cases h

/-- Settles O24: under a legal request a bad target is a site of the page stage, and a good one
leaves #PF no site. -/
theorem targetPageFaults : Obligations.TargetPageFaults := by
  refine fun s le l f ha hi hs hl => ⟨fun hf hbad => ?_, fun hv hb ht ho => ?_⟩
  · refine execEncluEaccept_badTarget ha hi hs hl hf fun hg => ?_
    rcases hbad with h | h | h | h
    · simp [hg.valid] at h
    · simp [hg.notBlocked] at h
    · exact h (by simpa using hg.type)
    · exact h hg.owner
  · exact execEncluEaccept_ne_pf ha hs hl ⟨hv, hb, by simpa using ht, ho⟩

/-- Settles O25. -/
theorem lockedPageFaults : Obligations.LockedPageFaults :=
  fun _ _ l _ ha hi hs hl hf ht hu => execEncluEaccept_page_error ha hi hs
    (State.pageStage_error_iff.2 (.inr (.inr (.inr ⟨l, hl, hf, ht, hu, rfl⟩))))

/-- Settles O26: each malformed part denies that the TCS is fresh; the owner of the target is the
running enclave. -/
theorem tcsContentsFaults : Obligations.TcsContentsFaults := by
  intro s f l h hm hk hp hbad
  refine execEncluEaccept_accept_error h
    (State.acceptStage_error_iff.2 ⟨hm, hk, hp, fun hc => ?_, rfl⟩)
  rw [h.target.target.owner] at hc
  rcases hbad with ⟨r, hr, i, hi, hx⟩ | hx | hx | hx | hx | ⟨hss, hx⟩ | ⟨hsecs, hx⟩
  · exact hx (hc.reserved r hr i hi)
  · simp [hc.dbgoptin] at hx
  · exact hx hc.aep
  · exact hx hc.state
  · exact absurd hc.saveAreas (Nat.not_lt.2 hx)
  · exact hx (hc.prevssp hss)
  · obtain ⟨hfs, hgs⟩ := hc.limits hsecs
    rcases hx with hx | hx
    · exact hx hfs
    · exact hx hgs

/-- A request that is not legal raises #GP(0), whatever the target's entry (R124). -/
theorem execEncluEaccept_illegal (ha : s.Admitted) (hi : s.inEnclave = true)
    (hs : s.SecinfoPasses le f) (hl : s.OperandAt .page l)
    (hf : ¬ Legal s.cfg.pt s.cfg.sgxAttrCet f) : execEncluEaccept s = .fault s.raiseGP :=
  illegalRequestFaults s le l f ha hi hs hl ((legalRequest_eq_false_iff _ _).2 hf)

/-- Settles O41: a legal request names an admissible type, and a good target has one. -/
theorem otherPageTypesNeverComplete : Obligations.OtherPageTypesNeverComplete := by
  refine fun s le l f ha hi hs hl => ⟨fun hpt => ?_, fun hpt => ?_⟩
  · exact execEncluEaccept_illegal ha hi hs hl fun hf => hpt hf.admissible
  · by_cases hf : Legal s.cfg.pt s.cfg.sgxAttrCet f
    · exact .inl ⟨hf, execEncluEaccept_badTarget ha hi hs hl hf fun hg => hpt hg.type⟩
    · exact .inr ⟨hf, execEncluEaccept_illegal ha hi hs hl hf⟩

end Sys2Proof.Machine
end

section
/-! Proofs: #GP(0) and #PF each exactly at their sites. -/

namespace Sys2Proof.Machine

variable {s : State} {f : SecinfoFlags}

/-! ### #GP(0) -/

theorem State.locateOperand_gp_iff (o : Operand) : s.locateOperand o = .error s.raiseGP ↔
    s.addressForm o = false ∨ (s.linearAddress o).toNat % o.size ≠ 0 ∨ s.inRange o = false := by
  simp [State.locateOperand_error_iff, State.raiseGP, State.raisePF]

/-- Sites 2, 3, 4 and 8 (R161). -/
theorem State.secinfoStage_gp_iff : s.secinfoStage = .error s.raiseGP ↔
    s.addressForm .secinfo = false ∨ (s.linearAddress .secinfo).toNat % 64 ≠ 0 ∨
    s.inRange .secinfo = false ∨
    ∃ le, s.OperandAt .secinfo le ∧ s.SecinfoPageGood le.entry ∧
      ∃ r ∈ s.cfg.secinfo.reserved, ∃ i < r.len,
        (s.readSecinfo le.pa).getLsbD (r.lo + i) = true := by
  rw [State.secinfoStage_error_iff, State.locateOperand_gp_iff]
  simp [State.raiseGP, State.raisePF, Operand.size, or_assoc]

/-- Sites 9, 10, 11, 13, 15 and 20 (R161): the page stage and, behind it, the TCS tests. -/
theorem State.page_gp_iff :
    (s.pageStage f = .error s.raiseGP ∨
      ∃ l, s.PagePasses f l ∧ s.acceptStage f l = .error s.raiseGP) ↔
    s.addressForm .page = false ∨ (s.linearAddress .page).toNat % 4096 ≠ 0 ∨
    s.inRange .page = false ∨
    ∃ l, s.OperandAt .page l ∧ (¬ Legal s.cfg.pt s.cfg.sgxAttrCet f ∨
      (Legal s.cfg.pt s.cfg.sgxAttrCet f ∧ s.TargetGood l.entry ∧ (l.page ∈ s.inUse ∨
        (l.page ∉ s.inUse ∧ s.Matches f l.entry ∧ l.page ∈ s.tracked ∧ f.pt = s.cfg.pt.tcs ∧
          ¬ s.TcsFresh l.pa l.entry.enclaveSecs)))) := by
  rw [State.pageStage_error_iff, State.locateOperand_gp_iff]
  constructor
  · rintro (((h | h | h) | ⟨l, hl, hf, -⟩ | ⟨_, _, _, _, h⟩ | ⟨l, hl, hf, ht, hu, -⟩) |
      ⟨l, ⟨hl, hf, ht, hu⟩, hacc⟩)
    · exact .inl h
    · exact .inr (.inl h)
    · exact .inr (.inr (.inl h))
    · exact .inr (.inr (.inr ⟨l, hl, .inl hf⟩))
    · cases h
    · exact .inr (.inr (.inr ⟨l, hl, .inr ⟨hf, ht, .inl hu⟩⟩))
    · obtain ⟨hm, hk, hp, hc, -⟩ := State.acceptStage_error_iff.1 hacc
      exact .inr (.inr (.inr ⟨l, hl, .inr ⟨hf, ht, .inr ⟨hu, hm, hk, hp, hc⟩⟩⟩))
  · rintro (h | h | h | ⟨l, hl, hf | ⟨hf, ht, hu | ⟨hu, hm, hk, hp, hc⟩⟩⟩)
    · exact .inl (.inl (.inl h))
    · exact .inl (.inl (.inr (.inl h)))
    · exact .inl (.inl (.inr (.inr h)))
    · exact .inl (.inr (.inl ⟨l, hl, hf, rfl⟩))
    · exact .inl (.inr (.inr (.inr ⟨l, hl, hf, ht, hu, rfl⟩)))
    · exact .inr ⟨l, ⟨hl, hf, ht, hu⟩, State.acceptStage_error_iff.2 ⟨hm, hk, hp, hc, rfl⟩⟩

/-- A fault is #GP(0) or #PF at an operand's linear address, and carries the unchanged state
(R175). -/
theorem execEncluEaccept_fault {e : Fault} (h : execEncluEaccept s = .fault e) :
    e = s.raiseGP ∨ ∃ site la, (la = s.linearAddress .secinfo ∨ la = s.linearAddress .page) ∧
      e = s.raisePF site la := by
  rcases execEncluEaccept_cases s with ⟨-, r, -, hx⟩ | ⟨-, -, hx⟩ | ⟨e', -, -, he, hx⟩ |
    ⟨f, e', -, -, -, he, hx⟩ | ⟨f, l, -, hx⟩ <;> rw [hx] at h
  · cases h
  · cases h; exact .inl rfl
  · cases h
    exact (State.secinfoStage_error he).imp_right fun ⟨site, hs⟩ => ⟨site, _, .inl rfl, hs⟩
  · cases h
    exact (State.pageStage_error he).imp_right fun ⟨site, hs⟩ => ⟨site, _, .inr rfl, hs⟩
  · cases hacc : s.acceptStage f l <;> rw [hacc] at h <;> cases h
    obtain ⟨-, -, -, -, rfl⟩ := State.acceptStage_error_iff.1 hacc
    exact .inl rfl

theorem execEncluEaccept_gp {c : BitVec 32} {s' : State}
    (h : execEncluEaccept s = .fault (.gp c s')) : c = 0 ∧ s' = s := by
  rcases execEncluEaccept_fault h with he | ⟨site, la, -, he⟩ <;> cases he
  exact ⟨rfl, rfl⟩

/-- Settles O32: the #GP(0) sites of each stage, in order. -/
theorem gpExactlyAtItsSites : Obligations.GpExactlyAtItsSites := by
  intro s ha
  refine ⟨?_, fun _ _ => execEncluEaccept_gp⟩
  have hgp : (∃ c, execEncluEaccept s = .fault (.gp c s)) ↔ execEncluEaccept s = .fault s.raiseGP :=
    ⟨fun ⟨c, h⟩ => by obtain ⟨rfl, -⟩ := execEncluEaccept_gp h; exact h, fun h => ⟨0, h⟩⟩
  rw [exec_encluEaccept, hgp, execEncluEaccept_fault_iff ha, State.secinfoStage_gp_iff]
  simp only [State.page_gp_iff, and_true, or_assoc]

/-! ### #PF -/

theorem State.locateOperand_pf_iff (o : Operand) (c : BitVec 32) (la : Word) :
    s.locateOperand o = .error (.pf c la s) ↔
    c = Config.pfec o.resolveSite s ∧ la = s.linearAddress o ∧ s.addressForm o = true ∧
      (s.linearAddress o).toNat % o.size = 0 ∧ s.inRange o = true ∧
      s.locate (s.linearAddress o) = none := by
  simp [State.locateOperand_error_iff, State.raiseGP, State.raisePF, and_assoc]

/-- Sites 5 and 6 (R163). -/
theorem State.secinfoStage_pf_iff (la : Word) :
    (∃ c, s.secinfoStage = .error (.pf c la s)) ↔ la = s.linearAddress .secinfo ∧
    ((s.addressForm .secinfo = true ∧ (s.linearAddress .secinfo).toNat % 64 = 0 ∧
      s.inRange .secinfo = true ∧ s.locate (s.linearAddress .secinfo) = none) ∨
    ∃ le, s.OperandAt .secinfo le ∧ ¬ s.SecinfoPageGood le.entry) := by
  simp only [State.secinfoStage_error_iff, State.locateOperand_pf_iff, State.raiseGP, State.raisePF,
    Operand.size]
  constructor
  · rintro ⟨c, ⟨-, hla, h⟩ | ⟨le, hl, hg, h⟩ | ⟨_, _, _, _, h⟩⟩
    · exact ⟨hla, .inl h⟩
    · cases h
      exact ⟨rfl, .inr ⟨le, hl, hg⟩⟩
    · cases h
  · rintro ⟨rfl, h | ⟨le, hl, hg⟩⟩
    · exact ⟨_, .inl ⟨rfl, rfl, h⟩⟩
    · exact ⟨_, .inr (.inl ⟨le, hl, hg, rfl⟩)⟩

/-- Sites 12 and 14 (R163). -/
theorem State.pageStage_pf_iff (la : Word) :
    (∃ c, s.pageStage f = .error (.pf c la s)) ↔ la = s.linearAddress .page ∧
    ((s.addressForm .page = true ∧ (s.linearAddress .page).toNat % 4096 = 0 ∧
      s.inRange .page = true ∧ s.locate (s.linearAddress .page) = none) ∨
    ∃ l, s.OperandAt .page l ∧ Legal s.cfg.pt s.cfg.sgxAttrCet f ∧ ¬ s.TargetGood l.entry) := by
  simp only [State.pageStage_error_iff, State.locateOperand_pf_iff, State.raiseGP, State.raisePF,
    Operand.size]
  constructor
  · rintro ⟨c, ⟨-, hla, h⟩ | ⟨_, _, _, h⟩ | ⟨l, hl, hf, ht, h⟩ | ⟨_, _, _, _, _, h⟩⟩
    · exact ⟨hla, .inl h⟩
    · cases h
    · cases h
      exact ⟨rfl, .inr ⟨l, hl, hf, ht⟩⟩
    · cases h
  · rintro ⟨rfl, h | ⟨l, hl, hf, ht⟩⟩
    · exact ⟨_, .inl ⟨rfl, rfl, h⟩⟩
    · exact ⟨_, .inr (.inr (.inl ⟨l, hl, hf, ht, rfl⟩))⟩

/-- Under the launch premises #PF comes from one of the two operand stages; the TCS tests raise
none. -/
theorem execEncluEaccept_pf_iff (ha : s.Admitted) (la : Word) :
    (∃ c, execEncluEaccept s = .fault (.pf c la s)) ↔ s.inEnclave = true ∧
      ((∃ c, s.secinfoStage = .error (.pf c la s)) ∨
        ∃ le f, s.SecinfoPasses le f ∧ ∃ c, s.pageStage f = .error (.pf c la s)) := by
  constructor
  · rintro ⟨c, h⟩
    rcases (execEncluEaccept_fault_iff ha).1 h with ⟨-, h⟩ | ⟨hi, h | ⟨le, f, hs, h | ⟨l, -, h⟩⟩⟩
    · cases h
    · exact ⟨hi, .inl ⟨c, h⟩⟩
    · exact ⟨hi, .inr ⟨le, f, hs, c, h⟩⟩
    · obtain ⟨-, -, -, -, h⟩ := State.acceptStage_error_iff.1 h
      cases h
  · rintro ⟨hi, ⟨c, h⟩ | ⟨le, f, hs, c, h⟩⟩
    · exact ⟨c, execEncluEaccept_secinfo_error ha hi h⟩
    · exact ⟨c, execEncluEaccept_page_error ha hi hs h⟩

/-- Settles O33: the #PF sites of the two operand stages, in order. -/
theorem pfExactlyAtItsSites : Obligations.PfExactlyAtItsSites := by
  intro s la ha
  rw [exec_encluEaccept, execEncluEaccept_pf_iff ha, State.secinfoStage_pf_iff]
  simp only [State.pageStage_pf_iff, and_left_comm (b := la = _), exists_and_left]

end Sys2Proof.Machine
end

section
/-! Proofs: what a completed execution writes and leaves, and what it says of its operands. -/

namespace Sys2Proof.Machine

variable {s t : State} {f : SecinfoFlags} {l le : Located}

/-! ### The two completions -/

theorem State.rax_completeError (s : State) (c : Word) : (s.completeError c).reg .rax = c :=
  (s.reg_completeError c .rax).trans (if_pos rfl)

theorem State.rax_completeAccept (s : State) (p : Nat) : (s.completeAccept p).reg .rax = 0 :=
  (s.reg_completeAccept p .rax).trans (if_pos rfl)

/-- What an execution that ends with an error code shows (R130, R131). -/
theorem completeError_shows (s : State) (c : Word) : (s.completeError c).reg .rax = c ∧
    (s.completeError c).flag .zf = true ∧ (s.completeError c).epcm = s.epcm :=
  ⟨s.rax_completeError c, (completeError_completed s c).zf, rfl⟩

theorem State.lookup_completeAccept_ne (s : State) {p q : Nat} (h : q ≠ p) :
    lookup q (s.completeAccept p).epcm = lookup q s.epcm := by
  rw [State.completeAccept_epcm, lookup_updateAt, if_neg h]

/-- The target's entry after a success (R139). -/
theorem State.lookup_completeAccept_self {la : Word} (h : s.locate la = some l) :
    lookup l.page (s.completeAccept l.page).epcm = some l.entry.accepted := by
  rw [State.completeAccept_epcm, lookup_updateAt, if_pos rfl, State.lookup_locate h]
  rfl

/-- Settles O27. -/
theorem acceptCompletes : Obligations.AcceptCompletes := fun s _ l h =>
  ⟨s.completeAccept l.page, execEncluEaccept_acceptable h, s.rax_completeAccept _,
    completeAccept_completed s _, completeAccept_framed s _,
    State.lookup_completeAccept_self h.ready.target.operand.resolves,
    fun _ hp => s.lookup_completeAccept_ne hp, keys_updateAt _ _ _⟩

/-- Settles O28: any of the seven differences denies the match. -/
theorem mismatchCompletes : Obligations.MismatchCompletes := by
  intro s f l h hdiff
  have hm : ¬ s.Matches f l.entry := by
    intro hm
    rcases hdiff with hd | hd | hd | hd | hd | hd | hd
    · exact hd hm.address
    · exact hd hm.pending
    · exact hd hm.modified
    · exact hd hm.r
    · exact hd hm.w
    · exact hd hm.x
    · exact hd hm.pt
  exact ⟨_, execEncluEaccept_mismatch h hm, s.rax_completeError _, completeError_completed s _,
    completeError_framed s _, rfl⟩

/-- Settles O29. -/
theorem notTrackedCompletes : Obligations.NotTrackedCompletes := fun s _ _ h hm hk =>
  ⟨_, execEncluEaccept_notTracked h hm hk, s.rax_completeError _, completeError_completed s _,
    completeError_framed s _, rfl⟩

/-! ### Every completed execution -/

/-- A completed execution had both operands pass, and ended with an error code or accepted the
target. -/
theorem execEncluEaccept_completion (h : execEncluEaccept s = .next t) : ∃ f l, s.Ready f l ∧
    ((∃ c, (c = s.cfg.pageAttributesMismatch ∨ c = s.cfg.notTracked) ∧ t = s.completeError c) ∨
      (s.Acceptable f l ∧ t = s.completeAccept l.page)) := by
  obtain ⟨f, l, hr, ⟨-, ht⟩ | ⟨-, -, ht⟩ | hacc⟩ := execEncluEaccept_next h
  · exact ⟨f, l, hr, .inl ⟨_, .inl rfl, ht⟩⟩
  · exact ⟨f, l, hr, .inl ⟨_, .inr rfl, ht⟩⟩
  · exact ⟨f, l, hr, .inr hacc⟩

theorem execEncluEaccept_framed (h : execEncluEaccept s = .next t) : Framed s t := by
  obtain ⟨f, l, -, ⟨c, -, rfl⟩ | ⟨-, rfl⟩⟩ := execEncluEaccept_completion h
  · exact completeError_framed s c
  · exact completeAccept_framed s _

/-- Every completed execution leaves the flags and pc of R141. -/
theorem execEncluEaccept_completed (h : execEncluEaccept s = .next t) : ∃ zf, Completed s t zf := by
  obtain ⟨f, l, -, ⟨c, -, rfl⟩ | ⟨-, rfl⟩⟩ := execEncluEaccept_completion h
  · exact ⟨true, completeError_completed s c⟩
  · exact ⟨false, completeAccept_completed s _⟩

/-- RAX and ZF after a completed execution (R130, R131, R140). -/
theorem execEncluEaccept_rax_zf (h : execEncluEaccept s = .next t) :
    (t.reg .rax = 0 ∧ t.flag .zf = false) ∨
    ((t.reg .rax = s.cfg.pageAttributesMismatch ∨ t.reg .rax = s.cfg.notTracked) ∧
      t.flag .zf = true) := by
  obtain ⟨f, l, -, ⟨c, hc, rfl⟩ | ⟨-, rfl⟩⟩ := execEncluEaccept_completion h
  · rw [s.rax_completeError]
    exact .inr ⟨hc, (completeError_completed s c).zf⟩
  · exact .inl ⟨s.rax_completeAccept _, (completeAccept_completed s _).zf⟩

/-- ZF = 0 is the sign of success (R170). -/
theorem execEncluEaccept_success (h : execEncluEaccept s = .next t) (hz : t.flag .zf = false) :
    ∃ f l, s.Acceptable f l ∧ t = s.completeAccept l.page := by
  obtain ⟨f, l, -, ⟨c, -, rfl⟩ | hacc⟩ := execEncluEaccept_completion h
  · rw [(completeError_completed s c).zf] at hz
    cases hz
  · exact ⟨f, l, hacc⟩

/-- Settles O31: an error code leaves the EPCM, a success clears the marks of the target's entry. -/
theorem completedExecutionFrame : Obligations.CompletedExecutionFrame := by
  intro s t h
  refine ⟨execEncluEaccept_framed h, ?_⟩
  obtain ⟨f, l', hr, ⟨c, -, rfl⟩ | ⟨-, rfl⟩⟩ := execEncluEaccept_completion h
  · exact ⟨rfl, fun l hl => ⟨fun _ _ => rfl, l.entry, State.lookup_locate hl, rfl, rfl, rfl, rfl,
      rfl, rfl, rfl, rfl⟩, fun _ => rfl⟩
  · refine ⟨keys_updateAt _ _ _, fun l hl => ?_, fun hz => ?_⟩
    · obtain rfl : l = l' := Option.some.inj (hl.symm.trans hr.target.operand.resolves)
      exact ⟨fun p hp => s.lookup_completeAccept_ne hp, l.entry.accepted,
        State.lookup_completeAccept_self hl, rfl, rfl, rfl, rfl, rfl, rfl, rfl, rfl⟩
    · rw [(completeAccept_completed s _).zf] at hz
      cases hz

/-- Settles O34: both signs tell an accepted target from an error code. -/
theorem succeedsExactlyUnderPreconditions : Obligations.SucceedsExactlyUnderPreconditions := by
  refine fun s => ⟨⟨?_, ?_⟩, fun hcodes => ⟨?_, ?_⟩⟩
  · rintro ⟨t, h, hz⟩
    obtain ⟨f, l, hacc, -⟩ := execEncluEaccept_success h hz
    exact ⟨f, l, hacc⟩
  · rintro ⟨f, l, hacc⟩
    exact ⟨_, execEncluEaccept_acceptable hacc, (completeAccept_completed s _).zf⟩
  · rintro ⟨t, h, hrax⟩
    obtain ⟨hmismatch, huntracked, -⟩ := hcodes
    obtain ⟨f, l, -, ⟨c, hc, rfl⟩ | ⟨hacc, -⟩⟩ := execEncluEaccept_completion h
    · rw [s.rax_completeError] at hrax
      rcases hc with rfl | rfl
      · exact absurd hrax hmismatch
      · exact absurd hrax huntracked
    · exact ⟨f, l, hacc⟩
  · rintro ⟨f, l, hacc⟩
    exact ⟨_, execEncluEaccept_acceptable hacc, s.rax_completeAccept _⟩

/-- Settles O35: no refusal under the launch premises, the two faults, the three completions. -/
theorem oneOfFiveOutcomes : Obligations.OneOfFiveOutcomes := by
  intro s ha
  rw [exec_encluEaccept]
  cases hx : execEncluEaccept s with
  | refused r => exact absurd ha ((execEncluEaccept_refused_iff s).1 ⟨r, hx⟩)
  | fault e =>
    rcases execEncluEaccept_fault hx with rfl | ⟨site, la, hla, rfl⟩
    · exact .inl rfl
    · exact .inr (.inl ⟨site, la, hla, rfl⟩)
  | next t =>
    have herror (c : Word) := completeError_shows s c
    obtain ⟨f, l, hr, ⟨-, rfl⟩ | ⟨-, -, rfl⟩ | ⟨-, rfl⟩⟩ := execEncluEaccept_next hx
    · obtain ⟨hrax, hzf, hepcm⟩ := herror s.cfg.pageAttributesMismatch
      exact .inr (.inr (.inl ⟨_, rfl, hepcm, hrax, hzf⟩))
    · obtain ⟨hrax, hzf, hepcm⟩ := herror s.cfg.notTracked
      exact .inr (.inr (.inr (.inl ⟨_, rfl, hepcm, hrax, hzf⟩)))
    · exact .inr (.inr (.inr (.inr ⟨_, l, rfl, hr.target.operand.resolves, rfl,
        s.rax_completeAccept _, (completeAccept_completed s _).zf⟩)))

/-- Settles O37: the launch premises P3 and P4 stay, and RAX holds 0 or an error code. -/
theorem eaxMustBeReloaded : Obligations.EaxMustBeReloaded := by
  intro s t hmismatch huntracked h
  have hframe := execEncluEaccept_framed h
  obtain ⟨f, l, hr, -⟩ := execEncluEaccept_next h
  have hcommon : t.CommonMet :=
    ⟨by rw [hframe.common]; exact hr.admitted.common.processor,
      by rw [hframe.common, hframe.mode64]; exact hr.admitted.common.ds⟩
  have hsgx2 : t.cfg.sgx2Present = true := by rw [hframe.cfg]; exact hr.admitted.sgx2
  refine execEncluEaccept_otherLeaf hcommon hsgx2 ?_
  rw [State.eax]
  rcases execEncluEaccept_rax_zf h with ⟨hrax, -⟩ | ⟨hrax | hrax, -⟩ <;> rw [hrax]
  · decide
  · exact hmismatch
  · exact huntracked

/-! ### What a legal request and a match say of the marks -/

/-- No clause of R123 asks for PENDING and MODIFIED both. -/
theorem Legal.not_pending_modified {y : PageTypes} {cet : Bool} (h : Legal y cet f) :
    ¬ (f.pending = true ∧ f.modified = true) := by
  rintro ⟨hp, hm⟩
  rcases h with ⟨-, -, hm'⟩ | ⟨-, -, hp', -⟩ | ⟨-, -, -, hm', -⟩
  · simp [hm] at hm'
  · simp [hp] at hp'
  · simp [hm] at hm'

/-- A legal request with neither PENDING nor MODIFIED is the permission restriction. -/
theorem Legal.restriction {y : PageTypes} {cet : Bool} (h : Legal y cet f)
    (hp : f.pending = false) (hm : f.modified = false) : f.pt = y.reg ∧ f.pr = true := by
  rcases h with ⟨hreg, hmark, -⟩ | ⟨-, -, -, hm'⟩ | ⟨-, -, hp', -⟩
  · exact ⟨hreg, hmark.resolve_right (by simp [hp])⟩
  · simp [hm] at hm'
  · simp [hp] at hp'

/-- Settles O42: the marks a match would need are not those of a legal request. -/
theorem unmatchableMarksMismatch : Obligations.UnmatchableMarksMismatch := by
  refine ⟨fun s f l h hmarks => ?_, fun s le l f ha hi hs hl hp hm hpr => ?_⟩
  · have hno : ¬ s.Matches f l.entry := by
      intro hmatch
      rw [hmatch.pending, hmatch.modified] at hmarks
      rcases hmarks with hboth | ⟨hp, hm, hn⟩
      · exact h.target.legal.not_pending_modified hboth
      · obtain ⟨hreg, hpr⟩ := h.target.legal.restriction hp hm
        exact hn ⟨hreg, hpr, hp⟩
    exact ⟨_, execEncluEaccept_mismatch h hno, completeError_shows s _⟩
  · refine execEncluEaccept_illegal ha hi hs hl fun hf => ?_
    obtain ⟨-, hpr'⟩ := hf.restriction hp hm
    simp [hpr] at hpr'

/-- Without SGX_ATTR_CET no legal request names a shadow-stack type: clause C is closed, and the
codes differ (R45). -/
theorem Legal.not_shadowStack {y : PageTypes} (hwf : y.wf) (h : Legal y false f) :
    f.pt ≠ y.ssFirst ∧ f.pt ≠ y.ssRest := by
  simp only [PageTypes.wf, List.nodup_cons, List.mem_cons, List.not_mem_nil, or_false, not_or]
    at hwf
  obtain ⟨-, ⟨-, -, -, htf, htr⟩, ⟨-, -, hrf, hrr⟩, -, ⟨hmf, hmr⟩, -⟩ := hwf
  rcases h with ⟨hpt, -⟩ | ⟨hpt | hpt, -⟩ | ⟨hcet, -⟩
  · rw [hpt]; exact ⟨hrf, hrr⟩
  · rw [hpt]; exact ⟨htf, htr⟩
  · rw [hpt]; exact ⟨hmf, hmr⟩
  · cases hcet

/-- Settles O40: the request is legal, so of no shadow-stack type, and matches no such page. -/
theorem shadowStackNeedsCet : Obligations.ShadowStackNeedsCet := by
  intro s t le l f hwf hcet h hs hl
  obtain ⟨f', l', hr, -⟩ := execEncluEaccept_next h
  obtain ⟨le', hs'⟩ := hr.secinfo
  obtain ⟨-, rfl⟩ := hs.unique hs'
  obtain rfl := hl.unique hr.target.operand
  have hlegal := hr.target.legal
  rw [hcet] at hlegal
  obtain ⟨hfirst, hrest⟩ := hlegal.not_shadowStack hwf
  refine ⟨⟨hfirst, hrest⟩, fun hpt => ?_⟩
  have hno : ¬ s.Matches f' l'.entry := by
    intro hm
    rw [hm.pt] at hpt
    exact hpt.elim hfirst hrest
  rw [exec_encluEaccept, execEncluEaccept_mismatch hr hno] at h
  cases h
  exact completeError_shows s _

/-- Settles O43: the page of the SECINFO is readable PT_REG and unmarked, so the request that
matches it is the permission restriction. -/
theorem secinfoInsideTargetPage : Obligations.SecinfoInsideTargetPage := by
  intro s t f le l h hz hle hl hpage hf
  obtain ⟨f', l', hacc, -⟩ := execEncluEaccept_success h hz
  obtain ⟨le', hs⟩ := hacc.ready.secinfo
  obtain rfl : le' = le := Option.some.inj (hs.operand.resolves.symm.trans hle)
  obtain rfl : l' = l := Option.some.inj (hacc.ready.target.operand.resolves.symm.trans hl)
  obtain rfl : f' = f := hs.flags.trans hf.symm
  have hentry : le'.entry = l'.entry := by
    have hlook := State.lookup_locate hle
    rw [hpage, State.lookup_locate hl] at hlook
    exact (Option.some.inj hlook).symm
  have hgood := hs.page
  rw [hentry] at hgood
  have hp : f'.pending = false := hacc.matched.pending.symm.trans hgood.notPending
  have hm : f'.modified = false := hacc.matched.modified.symm.trans hgood.notModified
  obtain ⟨hreg, hpr⟩ := hacc.ready.target.legal.restriction hp hm
  exact ⟨hreg, hpr, hp, hm, hgood.type, hgood.readable⟩

/-! ### Which pages are used -/

/-- Settles O45: both operands passed, and the one entry written is the target's, of the running
enclave. -/
theorem onlyPagesOfTheRunningEnclave : Obligations.OnlyPagesOfTheRunningEnclave := by
  intro s t h
  obtain ⟨f, l, hr, hend⟩ := execEncluEaccept_completion h
  obtain ⟨le, hs⟩ := hr.secinfo
  refine ⟨hr.inside, fun o => ?_, fun p e hp howner => ?_⟩
  · cases o with
    | secinfo => exact ⟨le, hs.operand.resolves, hs.page.valid, hs.page.notBlocked, hs.page.owner,
        hs.operand.low, hs.operand.high, fun _ => ⟨hs.page.readable, hs.page.type⟩⟩
    | page => exact ⟨l, hr.target.operand.resolves, hr.target.target.valid,
        hr.target.target.notBlocked, hr.target.target.owner, hr.target.operand.low,
        hr.target.operand.high, nofun⟩
  · rcases hend with ⟨c, -, rfl⟩ | ⟨-, rfl⟩
    · exact hp
    · have hne : p ≠ l.page := by
        rintro rfl
        rw [State.lookup_locate hr.target.operand.resolves] at hp
        cases hp
        exact howner hr.target.target.owner
      rw [s.lookup_completeAccept_ne hne, hp]

/-! ### After a success -/

/-- An entry of a completed state: the target's has its marks cleared. -/
def Located.afterAccept (page : Nat) (k : Located) : Located :=
  if k.page = page then { k with entry := k.entry.accepted } else k

@[simp] theorem Located.afterAccept_pa (page : Nat) (k : Located) :
    (k.afterAccept page).pa = k.pa := by
  unfold Located.afterAccept
  split <;> rfl

theorem Located.afterAccept_self (l : Located) :
    l.afterAccept l.page = { l with entry := l.entry.accepted } := if_pos rfl

theorem State.linearAddress_completeAccept (s : State) (p : Nat) (o : Operand) :
    (s.completeAccept p).linearAddress o = s.linearAddress o := by
  cases o <;> rfl

theorem State.locate_completeAccept (s : State) (p : Nat) (la : Word) :
    (s.completeAccept p).locate la = (s.locate la).map (Located.afterAccept p) :=
  s.locate_updateEpcm p EpcmEntry.accepted la

/-- Settles O46: looked up again, the target's entry is the accepted one. -/
theorem marksClearAfterSuccess : Obligations.MarksClearAfterSuccess := by
  intro s t h hz
  obtain ⟨f, l, hacc, rfl⟩ := execEncluEaccept_success h hz
  rw [s.linearAddress_completeAccept, s.locate_completeAccept,
    hacc.ready.target.operand.resolves, Option.map_some, l.afterAccept_self]
  exact ⟨_, rfl, rfl, rfl, rfl⟩

/-- The state of a second execution: EAX reloaded after a success, nothing else changed. -/
def State.reloaded (s : State) (page : Nat) : State := (s.completeAccept page).setReg .rax 5

theorem State.linearAddress_reloaded (s : State) (p : Nat) (o : Operand) :
    (s.reloaded p).linearAddress o = s.linearAddress o := by
  cases o <;> rfl

/-- A well-placed operand stays well placed, and finds the entry as the success left it. -/
theorem State.OperandAt.reloaded {o : Operand} {k : Located} (h : s.OperandAt o k) (p : Nat) :
    (s.reloaded p).OperandAt o (k.afterAccept p) := by
  have hform : (s.reloaded p).addressForm o = s.addressForm o := by cases o <;> rfl
  have hla := s.linearAddress_reloaded p o
  have hloc : (s.reloaded p).locate (s.linearAddress o) = some (k.afterAccept p) :=
    (s.locate_completeAccept p _).trans (congrArg (Option.map _) h.resolves)
  exact ⟨hform.trans h.form, by rw [hla]; exact h.aligned, by rw [hla]; exact h.low,
    by rw [hla]; exact h.high, by rw [hla]; exact hloc⟩

/-- Clearing the marks of an unmarked readable page keeps R116. -/
theorem State.SecinfoPageGood.reloaded {k : Located} (h : s.SecinfoPageGood k.entry) (p : Nat) :
    (s.reloaded p).SecinfoPageGood (k.afterAccept p).entry := by
  unfold Located.afterAccept
  split
  · exact ⟨h.valid, h.readable, rfl, rfl, h.notBlocked, h.type, h.owner, h.address⟩
  · exact ⟨h.valid, h.readable, h.notPending, h.notModified, h.notBlocked, h.type, h.owner,
      h.address⟩

/-- After a success with EAX reloaded, the same request passes again up to the match. -/
theorem State.Ready.reloaded (h : s.Ready f l) :
    (s.reloaded l.page).Ready f { l with entry := l.entry.accepted } := by
  obtain ⟨le, hs⟩ := h.secinfo
  have hread :
      (s.reloaded l.page).readSecinfo (le.afterAccept l.page).pa = s.readSecinfo le.pa := by
    rw [Located.afterAccept_pa]
    rfl
  have hadmitted : (s.reloaded l.page).Admitted :=
    ⟨rfl, ⟨h.admitted.common.processor, h.admitted.common.ds⟩, h.admitted.sgx2⟩
  have hsecinfo : (s.reloaded l.page).SecinfoPasses (le.afterAccept l.page) f :=
    ⟨hs.operand.reloaded _, hs.page.reloaded _, by rw [hread]; exact hs.reserved,
      by rw [hread]; exact hs.flags⟩
  have htarget := h.target.operand.reloaded l.page
  rw [l.afterAccept_self] at htarget
  have hgood := h.target.target
  exact ⟨hadmitted, h.inside, ⟨_, hsecinfo⟩, htarget, h.target.legal,
    ⟨hgood.valid, hgood.notBlocked, hgood.type, hgood.owner⟩, h.target.free⟩

/-- With no mark requested, the accepted entry still matches, and the second execution succeeds. -/
theorem State.Acceptable.reloaded (h : s.Acceptable f l) (hp : f.pending = false)
    (hm : f.modified = false) :
    (s.reloaded l.page).Acceptable f { l with entry := l.entry.accepted } := by
  obtain ⟨haddr, -, -, hr, hw, hx, hpt⟩ := h.matched
  have haddr' := haddr.trans (s.linearAddress_reloaded l.page .page).symm
  refine ⟨h.ready.reloaded, ⟨haddr', hp.symm, hm.symm, hr, hw, hx, hpt⟩, h.tracked, fun htcs => ?_⟩
  obtain ⟨hreserved, hdbgoptin, haep, hstate, hareas, hprevssp, hlimits⟩ := h.tcs htcs
  exact ⟨hreserved, hdbgoptin, haep, hstate, hareas, hprevssp, hlimits⟩

/-- Settles O39: the request passes again up to the match, which asks for its marks of an entry that
has none. -/
theorem secondExecutionAfterSuccess : Obligations.SecondExecutionAfterSuccess := by
  intro s t f l h ht
  rw [exec_encluEaccept, execEncluEaccept_acceptable h] at ht
  cases ht
  by_cases hmarks : f.pending = false ∧ f.modified = false
  · obtain ⟨hp, hm⟩ := hmarks
    refine ⟨_, execEncluEaccept_acceptable (h.reloaded hp hm), updateAt_updateAt _ _ _ _,
      fun _ => ⟨State.rax_completeAccept _ _, (completeAccept_completed _ _).zf⟩, ?_⟩
    simp [hp, hm]
  · have hno : ¬ (s.reloaded l.page).Matches f l.entry.accepted :=
      fun hm => hmarks ⟨hm.pending.symm, hm.modified.symm⟩
    obtain ⟨hrax, hzf, hepcm⟩ :=
      completeError_shows (s.reloaded l.page) s.cfg.pageAttributesMismatch
    exact ⟨_, execEncluEaccept_mismatch h.ready.reloaded hno, hepcm,
      fun hnone => absurd hnone hmarks, fun _ => ⟨hrax, hzf⟩⟩

end Sys2Proof.Machine
end

section
/-! Proofs: what the instruction does not read. Each is two states that agree on what it reads
(`Agrees`), and a change of the completed state that both completions carry. -/

namespace Sys2Proof.Machine

variable {s s' : State} {P : State → State}

/-! ### Ending alike, outcome by outcome -/

theorem EndsAlike.of_refused {r : Refusal} (h : execEncluEaccept s = .refused r)
    (h' : execEncluEaccept s' = .refused r) : EndsAlike P s s' := by
  constructor <;> simp [h, h']

theorem EndsAlike.of_gp (h : execEncluEaccept s = .fault s.raiseGP)
    (h' : execEncluEaccept s' = .fault s'.raiseGP) : EndsAlike P s s' := by
  constructor <;> simp [h, h', State.raiseGP]

theorem EndsAlike.of_pf {site : PfSite} {la : Word}
    (h : execEncluEaccept s = .fault (s.raisePF site la))
    (h' : execEncluEaccept s' = .fault (s'.raisePF site la)) : EndsAlike P s s' := by
  constructor <;> simp [h, h', State.raisePF]

theorem EndsAlike.of_next {t : State} (h : execEncluEaccept s = .next t)
    (h' : execEncluEaccept s' = .next (P t)) : EndsAlike P s s' := by
  constructor <;> simp [h, h']

/-- States that agree end alike when both completions carry the change `P`. -/
theorem Agrees.endsAlike (h : Agrees s s')
    (herror : ∀ c, s'.completeError c = P (s.completeError c))
    (haccept : ∀ l, s.locate (s.linearAddress .page) = some l →
      s'.completeAccept l.page = P (s.completeAccept l.page)) : EndsAlike P s s' := by
  rcases execEncluEaccept_agree h with ⟨r, h1, h2⟩ | ⟨h1, h2⟩ | ⟨site, la, h1, h2⟩ | ⟨c, h1, h2⟩ |
    ⟨l, hl, h1, h2⟩
  · exact .of_refused h1 h2
  · exact .of_gp h1 h2
  · exact .of_pf h1 h2
  · exact .of_next h1 (herror c ▸ h2)
  · exact .of_next h1 (haccept l hl ▸ h2)

/-! ### RFLAGS and the upper half of RAX -/

/-- The change of a completed state when RFLAGS was `v` on entry: the flags of the completion over
`v`. -/
def State.completedOver (v : Word) (t : State) : State :=
  { t with rflags := clearDoneFlags (writeFlag v .zf (t.flag .zf)) }

theorem agrees_rflags (s : State) (v : Word) : Agrees s { s with rflags := v } where
  refusal := rfl
  inEnclave := rfl
  cfg := rfl
  activeSecs := rfl
  inUse := rfl
  tracked := rfl
  operand o := .of_locate_eq (by cases o <;> rfl) (by cases o <;> rfl) rfl rfl
  secinfo _ _ := rfl
  tcs _ _ _ _ := rfl

theorem endsAlike_rflags (s : State) (v : Word) :
    EndsAlike (State.completedOver v) s { s with rflags := v } := by
  refine (agrees_rflags s v).endsAlike (fun c => ?_) (fun l _ => ?_)
  · rw [State.completedOver, (completeError_completed s c).zf]
    rfl
  · rw [State.completedOver, (completeAccept_completed s _).zf]
    rfl

/-- Settles O30: the flags by the two completions, and RFLAGS by `endsAlike_rflags`. -/
theorem statusFlagsWrittenAndNotRead : Obligations.StatusFlagsWrittenAndNotRead := by
  refine ⟨fun s t h => ⟨execEncluEaccept_rax_zf h, ?_⟩, fun s e h => ?_, fun s v => ?_⟩
  · obtain ⟨zf, -, hcf, hpf, haf, hof, hsf, -, -⟩ := execEncluEaccept_completed h
    exact ⟨hcf, hpf, haf, hof, hsf⟩
  · rcases execEncluEaccept_fault h with rfl | ⟨site, la, -, rfl⟩
    · exact .inl ⟨0, rfl⟩
    · exact .inr ⟨_, la, rfl⟩
  · have hends := endsAlike_rflags s v
    exact ⟨fun t h => ⟨_, hends.next t h⟩, hends.gp, hends.pf, hends.refused⟩

/-- EAX is all of RAX the instruction reads. -/
theorem agrees_rax (s : State) {v : Word} (h : v.setWidth 32 = s.eax) :
    Agrees s (s.setReg .rax v) where
  refusal := by
    have heax : (s.setReg .rax v).eax = s.eax := h
    simp only [State.leafRefusal, heax, State.setReg_common, State.setReg_mode64, State.setReg_cfg]
  inEnclave := rfl
  cfg := rfl
  activeSecs := rfl
  inUse := rfl
  tracked := rfl
  operand o := .of_locate_eq (by cases o <;> rfl) (by cases o <;> rfl) rfl rfl
  secinfo _ _ := rfl
  tcs _ _ _ _ := rfl

/-- Settles O36: every completion writes all of RAX. -/
theorem upperHalfOfRaxIgnored : Obligations.UpperHalfOfRaxIgnored :=
  fun s _ h => (agrees_rax s h).endsAlike (fun _ => rfl) (fun _ _ => rfl)

/-! ### PR of the target's entry -/

/-- The entry with another mark PR. -/
def EpcmEntry.setPr (b : Bool) (e : EpcmEntry) : EpcmEntry := { e with pr := b }

/-- Accepting an entry clears PR, whatever it was. -/
theorem EpcmEntry.accepted_setPr (b : Bool) : EpcmEntry.accepted ∘ EpcmEntry.setPr b =
    EpcmEntry.accepted := rfl

theorem agrees_setPr (s : State) (p : Nat) (b : Bool) :
    Agrees s (s.updateEpcm p (EpcmEntry.setPr b)) where
  refusal := rfl
  inEnclave := rfl
  cfg := rfl
  activeSecs := rfl
  inUse := rfl
  tracked := rfl
  operand o := by
    refine ⟨by cases o <;> rfl, by cases o <;> rfl, rfl, ?_⟩
    rw [s.locate_updateEpcm]
    cases hl : s.locate (s.linearAddress o) with
    | none => exact .inl ⟨rfl, rfl⟩
    | some k =>
      refine .inr ⟨k, if k.page = p then b else k.entry.pr, rfl, ?_⟩
      by_cases hk : k.page = p <;> simp [hk, EpcmEntry.setPr, Located.withPr]
  secinfo _ _ := rfl
  tcs _ _ _ _ := rfl

/-- Settles O38: with an error code the entry stays as it was, and accepting it forgets PR. -/
theorem targetPrNeverRead : Obligations.TargetPrNeverRead := by
  intro s l b hl
  refine (agrees_setPr s l.page b).endsAlike (fun c => ?_) (fun l' hl' => ?_)
  · rw [if_pos (completeError_completed s c).zf]
    rfl
  · obtain rfl : l' = l := Option.some.inj (hl'.symm.trans hl)
    have hepcm : updateAt l'.page EpcmEntry.accepted (updateAt l'.page (EpcmEntry.setPr b) s.epcm) =
        updateAt l'.page EpcmEntry.accepted s.epcm := by
      rw [updateAt_updateAt, EpcmEntry.accepted_setPr]
    rw [if_neg (by simp [(completeAccept_completed s l'.page).zf])]
    exact congrArg (fun m => { s.completeAccept l'.page with epcm := m }) hepcm

/-! ### RCX, when the SECINFO does not pass -/

/-- Settles O44: the SECINFO stage reads no RCX, and it decides. -/
theorem secinfoTestsComeFirst : Obligations.SecinfoTestsComeFirst := by
  intro s v ha hi hno
  have ha' : (s.setReg .rcx v).Admitted :=
    ⟨ha.eax, ⟨ha.common.processor, ha.common.ds⟩, ha.sgx2⟩
  have hagree : AgreesAt s (s.setReg .rcx v) .secinfo := .of_locate_eq rfl rfl rfl rfl
  have hstage := secinfoStage_agree (s := s) (s' := s.setReg .rcx v) rfl rfl hagree (fun _ _ => rfl)
  rcases hstage with ⟨h1, h2⟩ | ⟨site, h1, h2⟩ | ⟨f, h1, -⟩
  · exact .inl ⟨execEncluEaccept_secinfo_error ha hi h1, execEncluEaccept_secinfo_error ha' hi h2⟩
  · exact .inr ⟨_, _, execEncluEaccept_secinfo_error ha hi h1,
      execEncluEaccept_secinfo_error ha' hi h2⟩
  · obtain ⟨le, hs⟩ := State.secinfoStage_ok.1 h1
    exact absurd ⟨le, f, hs⟩ hno

/-! ### Memory outside the operands -/

/-- A field inside the page depends on the page's bytes alone. -/
theorem State.tcsField_congr {pa : Word} {y : TcsField}
    (h : ∀ i < 4096, Memory.read s'.mem (pa.toNat + i) = Memory.read s.mem (pa.toNat + i))
    (hy : y.offset + y.bytes ≤ 4096) : s'.tcsField pa y = s.tcsField pa y := by
  refine Memory.readLE_congr fun i hi => ?_
  rw [Nat.add_assoc]
  exact h _ (by omega)

/-- The TCS tests depend on the bytes of the page, the layout, CPUID_CET_SS and SECS_MODE64BIT. -/
theorem State.tcsOk_congr {pa tmp : Word} (hc : s'.cfg = s.cfg) (hwf : s.cfg.tcs.wf)
    (hx : s'.secsMode64 = s.secsMode64)
    (h : ∀ i < 4096, Memory.read s'.mem (pa.toNat + i) = Memory.read s.mem (pa.toNat + i)) :
    s'.tcsOk pa tmp = s.tcsOk pa tmp := by
  obtain ⟨hfit, -, -⟩ := hwf
  have hfield (y : TcsField) (hy : y ∈ s.cfg.tcs.fields) : s'.tcsField pa y = s.tcsField pa y :=
    State.tcsField_congr h (hfit y hy)
  have hreserved : s'.tcsReservedZero pa = s.tcsReservedZero pa := by
    unfold State.tcsReservedZero
    rw [hc, Bool.eq_iff_iff]
    simp only [List.all_eq_true, Memory.allZero_iff]
    refine forall₂_congr fun y hy => forall₂_congr fun i hi => ?_
    have hin := hfit y (List.mem_append_right _ hy)
    rw [Nat.add_assoc, h _ (by omega)]
  have hsecs : s'.secsMode64bit tmp = s.secsMode64bit tmp := by
    unfold State.secsMode64bit
    rw [hx]
  unfold State.tcsOk State.tcsDbgoptin
  rw [hc, hreserved, hsecs, hfield s.cfg.tcs.flags, hfield s.cfg.tcs.aep, hfield s.cfg.tcs.state,
    hfield s.cfg.tcs.cssa, hfield s.cfg.tcs.nssa, hfield s.cfg.tcs.prevssp,
    hfield s.cfg.tcs.fslimit, hfield s.cfg.tcs.gslimit] <;> simp [TcsLayout.fields]

/-- Settles O47: SECINFO is read from the 64 bytes, the TCS from the 4096. -/
theorem readsOnlyItsOperandsMemory : Obligations.ReadsOnlyItsOperandsMemory := by
  intro s m hwf hsecinfo htcs
  have hagree : Agrees s { s with mem := m } :=
    { refusal := rfl
      inEnclave := rfl
      cfg := rfl
      activeSecs := rfl
      inUse := rfl
      tracked := rfl
      operand := fun o => .of_locate_eq (by cases o <;> rfl) (by cases o <;> rfl) rfl rfl
      secinfo := fun le hle => congrArg (BitVec.ofNat 512) (Memory.readLE_congr (hsecinfo le hle))
      tcs := fun f l hr hpt => State.tcsOk_congr rfl hwf rfl (htcs f l hr hpt) }
  exact hagree.endsAlike (fun _ => rfl) (fun _ _ => rfl)

/-! ### DS in 64-bit mode -/

/-- The state with another DS: base and limit `d`, usable or not. -/
def State.withDs (s : State) (d : Segment) (usable : Bool) : State :=
  { s with ds := d, common := { s.common with dsUsable := usable } }

theorem agrees_withDs (s : State) (d : Segment) (u : Bool) (hm : s.mode64 = true) :
    Agrees s (s.withDs d u) where
  refusal := by
    have hfailing : (s.withDs d u).common.failing true = s.common.failing true :=
      CommonConditions.failing_dsUsable s.common u
    have hm' : (s.withDs d u).mode64 = true := hm
    unfold State.leafRefusal
    rw [hm, hm', hfailing]
    rfl
  inEnclave := rfl
  cfg := rfl
  activeSecs := rfl
  inUse := rfl
  tracked := rfl
  operand o := .of_locate_eq
    ((State.addressForm_64 (s := s.withDs d u) o hm).trans (State.addressForm_64 o hm).symm)
    ((State.linearAddress_64 (s := s.withDs d u) o hm).trans (State.linearAddress_64 o hm).symm)
    rfl rfl
  secinfo _ _ := rfl
  tcs _ _ _ _ := rfl

/-- Settles O48: in 64-bit mode the linear address is the register, and P3 asks nothing of DS. -/
theorem dsIgnoredIn64BitMode : Obligations.DsIgnoredIn64BitMode :=
  fun s d u hm => (agrees_withDs s d u hm).endsAlike (P := fun t => t.withDs d u) (fun _ => rfl)
    (fun _ _ => rfl)

end Sys2Proof.Machine
end
